-- ==== Sys2Proof/Config.lean ====
section
/-! DEFINITION. The build-time constants of 00_scope.md R5 to R11, each in one place (93_implementation_defined.md
U12), and the one free value of the model. The widths are reducible, so that a type built from one is a plain
`BitVec`. `ITEM_W` (R12) is no constant: it is the parameter `State.extraBits` of an instance. -/

namespace Sys2Proof.Config

/-- `HEADER_BITS` (R5): the width of the header register and the number of header items. -/
abbrev headerBits : Nat := 32

/-- `LEN_BITS` (R6): the width of a payload length, and of the byte counter and buffer index that count up to it
(10_state.md R28, 20_memory.md R40). -/
abbrev lenBits : Nat := 12

/-- Bits in one payload byte (42_payload.md R121: "counted complete after 8 shifts"). -/
abbrev byteBits : Nat := 8

/-- Width of the header bit counter (10_state.md R23): it counts up to `headerBits - 1`. -/
abbrev hdrCntBits : Nat := 5

/-- Width of the bit position in a payload byte (10_state.md R27): it counts up to `byteBits - 1`. -/
abbrev bitIdxBits : Nat := 3

/-- Width of the whitener offset (10_state.md R25). -/
abbrev whOffBits : Nat := 4

/-- `CAPACITY` in bytes (R7). -/
def capacity : Nat := 4096

/-- The voted header fields as pairs of highest and lowest bit (R8). -/
def voteRanges : List (Nat × Nat) := [(11, 0), (27, 16)]

/-- `VOTE_TIE` (R9). -/
def voteTie : Nat := 12

/-- `SENTINEL_LO` (R10). -/
def sentinelLo : BitVec headerBits := 5

/-- `SENTINEL_HI` (R10). -/
def sentinelHi : BitVec headerBits := 260

/-- `WHITENER_EN` (R11): off by construction. A model must refuse the value 1, see `WellFormed.whitenerOk`. -/
def whitenerEn : Bool := false

/-- The least legal `ITEM_W` (R12): the start flag and the data bit. -/
abbrev minItemW : Nat := 2

/-- FREE VALUE: what a buffer byte holds that nothing has written since the last reset (10_state.md R29, 20_memory.md
R43, 93_implementation_defined.md U3). It has no body, so nothing can be proved of its value. The first argument is
the model's reset counter `State.epoch`. DESIGN CHOICE, log entry 5; safe. -/
opaque unspecifiedByte (epoch : Nat) (i : BitVec lenBits) : BitVec byteBits

end Sys2Proof.Config
end

