-- ==== Sys2Proof/Word.lean ====
section
/-! DEFINITION. The word types of the Deframer (00_scope.md R14). Every quantity is unsigned, bit 0 is the least
significant bit. -/

namespace Sys2Proof

/-- One data bit, the operand of every item (30_encoding.md R63). -/
abbrev Bit := BitVec 1

/-- A payload or buffer byte (00_scope.md R14). -/
abbrev Byte := BitVec Config.byteBits

/-- A whole header, or the value it decodes to (00_scope.md R5, 41_header.md R103). -/
abbrev Header := BitVec Config.headerBits

/-- A payload length, a byte count or a buffer index (00_scope.md R6, 10_state.md R28, 20_memory.md R40). -/
abbrev Index := BitVec Config.lenBits

end Sys2Proof
end

