-- ==== Sys2Proof/Syntax.lean ====
section
/-! DEFINITION. The input item, which plays the part of an instruction (30_encoding.md R60 to R62), and the transport
unit that carries it. One constructor of `Instr` per row of opcode_table.json. -/

namespace Sys2Proof

/-- The item kinds of 30_encoding.md R62, each with its one operand, the data bit `d`. -/
inductive Instr where
  /-- `SYNC`, pattern `1d`: the first bit after a synchronization marker. -/
  | sync (d : Bit)
  /-- `DATA`, pattern `0d`: any other header or payload bit. -/
  | data (d : Bit)
  deriving DecidableEq, Repr

/-- One transport unit of an instance with `ITEM_W = extraBits + 2` (00_scope.md R12, 30_encoding.md R60): bit 0 is
`data_bit`, bit 1 is `is_frame_start`, the `extraBits` bits above are ignored (R64). `ITEM_W ≥ 2` holds by
construction. -/
abbrev TransportUnit (extraBits : Nat) := BitVec (extraBits + Config.minItemW)

end Sys2Proof
end

