-- ==== Sys2Proof/WellFormed.lean ====
section
/-! DEFINITION. The checks the spec puts on items, port widths and the build configuration. -/

namespace Sys2Proof

/-- The four legal items `D0`, `D1`, `S0`, `S1`: "All four combinations of `(f, d)` are legal" (30_encoding.md R61). -/
def Instr.legal : List Instr := [.data 0, .data 1, .sync 0, .sync 1]

/-- An item is well-formed when it is one of the four; R64 says that no item is illegal, so every item is. -/
def Instr.wf (i : Instr) : Bool := Instr.legal.contains i

namespace WellFormed

/-- `ITEM_W ≥ 2` (00_scope.md R12). That every unit of one instance has its one `ITEM_W` holds by the type of
`State.inputs`. -/
def itemWOk (w : Nat) : Bool := decide (Config.minItemW ≤ w)

/-- `WHITENER_EN = 1` is not specified and must be refused (00_scope.md R11, 93_implementation_defined.md U2). -/
def whitenerOk (whitenerEn : Bool) : Bool := !whitenerEn

end WellFormed

end Sys2Proof
end

