-- ==== Sys2Proof/Decode.lean ====
section
/-! DEFINITION. Decoding a transport unit into an item and encoding an item into a unit (30_encoding.md R60 to R64). -/

namespace Sys2Proof

/-- Why the levels of a port are no transport unit. -/
inductive DecodeError where
  /-- Fewer than two bits: `ITEM_W ≥ 2` is required (00_scope.md R12). -/
  | unitTooNarrow
  deriving DecidableEq, Repr

/-- The item of the two meaningful bits: bit 1 is the start flag, bit 0 the data bit (R60, R62). -/
def Instr.ofItemCode (c : BitVec 2) : Instr :=
  if c.getLsbD 1 then .sync (c.extractLsb' 0 1) else .data (c.extractLsb' 0 1)

/-- The item code `2f + d` of an item (R62, R69). -/
def Instr.itemCode : Instr → BitVec 2
  | .sync d => 1#1 ++ d
  | .data d => 0#1 ++ d

/-- The item a transport unit carries. Every unit is a legal item and bits above bit 1 are ignored (R64). -/
def decode {n : Nat} (u : TransportUnit n) : Instr := Instr.ofItemCode (u.extractLsb' 0 2)

/-- Decoding the levels of a port of any width; one narrower than 2 bits is refused by name (00_scope.md R12). -/
def decodePort (w : Nat) (v : BitVec w) : Except DecodeError Instr :=
  if WellFormed.itemWOk w then .ok (decode (n := w - Config.minItemW) (v.setWidth _)) else .error .unitTooNarrow

/-- The transport unit of an item, with any pattern `x` in the ignored bits (R61, R64). -/
def encode {n : Nat} (x : BitVec n) (i : Instr) : TransportUnit n := x ++ i.itemCode

/-- The levels of a `width`-bit port that carries an instruction of opcode_table.json whose first `nbits` bits are `w`
and whose other bits are 0. -/
def tableLevels (width nbits w : Nat) : BitVec width := BitVec.ofNat width (w % 2 ^ nbits)

/-- The instruction the decoder reads from an instruction whose bits are `w`, on a port `nbits` wide, or two bits wide
where `nbits` is less. -/
def decodeTableWord (nbits w : Nat) : Option Instr :=
  (decodePort _ (tableLevels (max nbits Config.minItemW) nbits w)).toOption

end Sys2Proof
end

