-- ==== Sys2Proof/Machine/State.lean ====
section
/-! DEFINITION. The state of one Deframer instance (10_state.md R20 to R35), the reasons a step can stop, and the state
after reset (R32). -/

namespace Sys2Proof.Machine

/-- The control state `st` (10_state.md R21). The register code `2'b11` has no value here, see `Ctrl.ofCode`. -/
inductive Ctrl where
  /-- Waits for a sync item. -/
  | syncSearch
  /-- Collects the 32 header bits. -/
  | haveSync
  /-- Collects the payload. -/
  | haveHeader
  deriving DecidableEq, Repr

/-- A completed packet: its bytes by value and its length (30_encoding.md R66). -/
structure Packet where
  bytes : List Byte
  length : Index
  deriving DecidableEq, Repr

/-- The input pins as one rising edge of `clk` samples them (30_encoding.md R67), on an instance with
`ITEM_W = extraBits + 2`. -/
structure Edge (extraBits : Nat) where
  rst : Bool
  inValid : Bool
  inItem : TransportUnit extraBits
  deriving DecidableEq, Repr

/-- The packet buffer: the cells written since the last reset, as (index, byte) pairs in rising order of index. A cell
that is not listed holds no value (20_memory.md R43; log entry 5). -/
abbrev Memory := List Host.Cell

/-- Everything the spec gives the machine, and below it the model's own fields. -/
structure State where
  /-- The build-time parameter `ITEM_W` of this instance, as the number of its bits above the two that matter
  (00_scope.md R12). No step writes it. -/
  extraBits : Nat
  /-- Control state (R21). -/
  st : Ctrl
  /-- Header shift register (R22). -/
  hdr : Header
  /-- Header bits accumulated so far (R23). -/
  hdrCnt : BitVec Config.hdrCntBits
  /-- Declared payload length in bytes (R24). -/
  pktLen : Index
  /-- Whitener offset, held at 0 (R25). -/
  whOff : BitVec Config.whOffBits
  /-- Payload byte accumulator (R26). -/
  pbyte : Byte
  /-- Bits already in the accumulator (R27). -/
  bitIdx : BitVec Config.bitIdxBits
  /-- Payload bytes committed to the buffer (R28). -/
  byteCnt : Index
  /-- The packet buffer (R29, 20_memory.md R40). -/
  buf : Memory
  /-- Output strobe register (R35). -/
  outValid : Bool
  /-- Output length register (R35). -/
  outLen : Index
  /-- MODEL's own: the input pins at the clock edges to come, next first (log entry 1). -/
  inputs : List (Edge extraBits)
  /-- MODEL's own: the packets handed to the sink, oldest first (log entry 2). -/
  delivered : List Packet
  /-- MODEL's own: how many reset edges there were; it only selects a free value (log entry 5). -/
  epoch : Nat
  deriving DecidableEq, Repr

/-- Faults: none. "The block never raises an exception, never refuses an item and never stops itself" (60_exceptions.md
R153). Log entry 10. -/
inductive Fault where
  deriving DecidableEq, Repr

/-- Refusals. -/
inductive Refusal where
  /-- An arm of `exec` without a meaning; no arm raises it. Safe. -/
  | notModelled (mnemonic : String)
  /-- Raised by `clockEdge` for a build with `WHITENER_EN = 1`, which the spec orders refused (00_scope.md R11,
  93_implementation_defined.md U2). The build constant is off, so no step raises it. Safe. -/
  | whitenerEnabled
  deriving DecidableEq, Repr

/-- `ITEM_W` (00_scope.md R12): at least 2 by construction. -/
def State.itemW (s : State) : Nat := s.extraBits + Config.minItemW

/-- An instance with `ITEM_W = extraBits + 2` right after reset (10_state.md R32). The buffer lists nothing, because its
contents are unspecified (log entry 5); the model's own fields are empty (entries 1, 2 and 5). -/
def State.resetOf (extraBits : Nat) : State where
  extraBits := extraBits
  st := .syncSearch
  hdr := 0
  hdrCnt := 0
  pktLen := 0
  whOff := 0
  pbyte := 0
  bitIdx := 0
  byteCnt := 0
  buf := []
  outValid := false
  outLen := 0
  inputs := []
  delivered := []
  epoch := 0

/-- The machine right after reset, on an instance with `ITEM_W = 8`. The spec leaves `ITEM_W` open (00_scope.md R12):
DESIGN CHOICE, log entry 3; every other width is `State.resetOf`. -/
def State.reset : State := State.resetOf 6

end Sys2Proof.Machine
end

