-- ==== Sys2Proof/Machine/Operands.lean ====
section
/-! DEFINITION. How an item's operand enters a register (30_encoding.md R63), and the register code of the control
state (10_state.md R21). The block has no flags (R30), so there is no flag computation. -/

namespace Sys2Proof.Machine

/-- `(v << 1) | zext(d)`, truncated to the width of `v`: the operand assembly of header and payload bits (R63). -/
def shiftIn {w : Nat} (v : BitVec w) (d : Bit) : BitVec w := (v <<< 1) ||| d.setWidth w

/-- The 2-bit register code of a control state (R21). -/
def Ctrl.code : Ctrl → BitVec 2
  | .syncSearch => 0b00#2
  | .haveSync => 0b01#2
  | .haveHeader => 0b10#2

/-- The control state a 2-bit code stands for; the unreachable code `2'b11` is treated as `SYNC_SEARCH` (R21). -/
def Ctrl.ofCode (c : BitVec 2) : Ctrl :=
  if c = 0b01#2 then .haveSync else if c = 0b10#2 then .haveHeader else .syncSearch

end Sys2Proof.Machine
end

