-- ==== Sys2Proof/Machine/Ops.lean ====
section
/-! DEFINITION. The named operations over the packet buffer and the registers: `BufRead` and `BufWrite` (20_memory.md
R41, R42), the register groups `enter_search`, `enter_sync` and `enter_have_header` (40_frame_sync.md R83, R84,
41_header.md R108), emission (42_payload.md R123) and the reset edge (70_reset_and_hazards.md R161). `enterSearch` is
also the recovery that stands in place of taking an exception and returning from it (60_exceptions.md R144, R145). -/

namespace Sys2Proof.Machine

/-- The canonical form of the buffer: indices strictly rising and below `CAPACITY`. An unlisted index holds no value,
so no entry can equal it. -/
abbrev Memory.wf (m : Memory) : Prop :=
  m.Pairwise (fun c c' => c.1 < c'.1) ∧ ∀ c ∈ m, c.1 < Config.capacity

/-- What is stored at an index: `none` where nothing has been written since reset. -/
def Memory.lookup : Memory → Nat → Option Byte
  | [], _ => none
  | c :: m, a => if c.1 = a then some c.2 else Memory.lookup m a

/-- Stores a byte at an index and keeps the canonical form. -/
def Memory.store : Memory → Nat → Byte → Memory
  | [], a, v => [(a, v)]
  | c :: m, a, v =>
    if a < c.1 then (a, v) :: c :: m
    else if c.1 = a then (a, v) :: m
    else c :: Memory.store m a v

/-- `BufRead(i)` (20_memory.md R42). A byte nothing has written since reset is unspecified: a free
value (DESIGN CHOICE, log entry 5; safe), the same at every read until the next reset (DEDUCED, log entry 6; unsafe). -/
def bufRead (i : Index) (s : State) : Byte :=
  match s.buf.lookup i.toNat with
  | some v => v
  | none => Config.unspecifiedByte s.epoch i

/-- `BufWrite(i, v)` (20_memory.md R41). -/
def bufWrite (i : Index) (v : Byte) (s : State) : State := { s with buf := s.buf.store i.toNat v }

/-- `[BufRead(0), ..., BufRead(len - 1)]`, the bytes of a packet of `len` bytes (30_encoding.md R66). -/
def bufPrefix (len : Index) (s : State) : List Byte :=
  (List.range len.toNat).map fun j => bufRead (BitVec.ofNat _ j) s

/-- `enter_search()` (40_frame_sync.md R83): every register returns to its `SYNC_SEARCH` value, the buffer contents are
kept (20_memory.md R44), and nothing is saved or recorded (60_exceptions.md R144). -/
def enterSearch (s : State) : State :=
  { s with st := .syncSearch, hdr := 0, hdrCnt := 0, pktLen := 0, whOff := 0, pbyte := 0, bitIdx := 0, byteCnt := 0 }

/-- `enter_sync(d)` (40_frame_sync.md R84): a new header whose first bit is `d`. -/
def enterSync (d : Bit) (s : State) : State :=
  { s with st := .haveSync, hdr := d.setWidth _, hdrCnt := 1, pktLen := 0, whOff := 0, pbyte := 0, bitIdx := 0,
           byteCnt := 0 }

/-- `enter_have_header(L, off)` (41_header.md R108). -/
def enterHaveHeader (len : Index) (off : BitVec Config.whOffBits) (s : State) : State :=
  { s with st := .haveHeader, pktLen := len, whOff := off, pbyte := 0, bitIdx := 0, byteCnt := 0, hdr := 0,
           hdrCnt := 0 }

/-- Gives a step's output to the output pins and to the sink (30_encoding.md R68, 42_payload.md R123): a packet raises
`out_valid`, sets `out_len` and is delivered once; no packet clears `out_valid` and keeps `out_len` (10_state.md R35). -/
def publish : State × Option Packet → State
  | (s, none) => { s with outValid := false }
  | (s, some p) => { s with outValid := true, outLen := p.length, delivered := s.delivered ++ [p] }

/-- A reset edge (70_reset_and_hazards.md R161): `enter_search()` with the output registers cleared. The buffer contents
become unspecified, so no cell stays listed and a new free value holds (log entry 5). -/
def resetEdge (s : State) : State :=
  { enterSearch s with outValid := false, outLen := 0, buf := [], epoch := s.epoch + 1 }

end Sys2Proof.Machine
end

