-- ==== Sys2Proof/Machine/FrameSync.lean ====
section
/-! DEFINITION. The frame synchronizer: the `SYNC` item in every state (40_frame_sync.md R81, R85, R86), and the `DATA`
item in `SYNC_SEARCH` (R82). -/

namespace Sys2Proof.Machine

/-- `SYNC(d)` (R81): a header or packet in progress is abandoned, a new header starts, nothing is emitted. -/
def syncItem (d : Bit) (s : State) : State × Option Packet := (enterSync d s, none)

/-- `DATA_SEARCH(d)` (R82): the item is consumed and ignored. -/
def dataSearch (_d : Bit) (s : State) : State × Option Packet := (s, none)

/-- The meaning of a `SYNC` item at a clock edge: `SYNC(d)` and its output on the pins (30_encoding.md R68). -/
def execSync (d : Bit) (s : State) : Host.Outcome State Fault Refusal := .next (publish (syncItem d s))

end Sys2Proof.Machine
end

