-- ==== Sys2Proof/Machine/HeaderDecode.lean ====
section
/-! DEFINITION. The header's vote, its decode and its field extraction (41_header.md R102 to R105). -/

namespace Sys2Proof.Machine

/-- `popcount`: the "count of set bits" (00_scope.md R14). -/
def popcount {w : Nat} (v : BitVec w) : Nat := (List.range w).countP fun i => v.getLsbD i

/-- The vote weight `W` of a header (R102): the set bits of the voted ranges. -/
def weight (h : Header) : Nat := (Config.voteRanges.map fun r => popcount (h.extractLsb r.1 r.2)).sum

/-- `decode_header(H)` (R103); `none` is `ERROR`, the tied vote. -/
def decodeHeader (h : Header) : Option Header :=
  if weight h < Config.voteTie then some Config.sentinelLo
  else if Config.voteTie < weight h then some Config.sentinelHi
  else none

/-- `header_payload(v)` (R104): the length is the low `LEN_BITS` bits (00_scope.md R6) and the whitener offset is 0. -/
def headerPayload (v : Header) : Index × BitVec Config.whOffBits := (v.setWidth Config.lenBits, 0)

end Sys2Proof.Machine
end

