-- ==== Sys2Proof/Machine/Header.lean ====
section
/-! DEFINITION. The `DATA` item in `HAVE_SYNC`: header shift and header completion (41_header.md R100 to R109). -/

namespace Sys2Proof.Machine

/-- `HDR_SHIFT(d)` (R100). -/
def hdrShift (d : Bit) (s : State) : State × Option Packet :=
  ({ s with hdr := shiftIn s.hdr d, hdrCnt := s.hdrCnt + 1 }, none)

/-- What header completion does with an extracted length and offset (R101): a length over capacity is rejected (R106),
a zero length emits an empty packet at once (R107), any other enters `HAVE_HEADER` (R108). -/
def acceptHeader (capacity : Nat) (lenOff : Index × BitVec Config.whOffBits) (s : State) : State × Option Packet :=
  if capacity < lenOff.1.toNat then (enterSearch s, none)
  else if lenOff.1 = 0 then (enterSearch s, some ⟨[], 0⟩)
  else (enterHaveHeader lenOff.1 lenOff.2 s, none)

/-- `HDR_DONE(d)` (R101): the 32nd header bit; a tied vote returns to `SYNC_SEARCH` (R109). -/
def hdrDone (d : Bit) (s : State) : State × Option Packet :=
  match decodeHeader (shiftIn s.hdr d) with
  | none => (enterSearch s, none)
  | some v => acceptHeader Config.capacity (headerPayload v) s

end Sys2Proof.Machine
end

