-- ==== Sys2Proof/Machine/Payload.lean ====
section
/-! DEFINITION. The `DATA` item in `HAVE_HEADER`: payload accumulator, byte formatter and emission (42_payload.md R120
to R123). -/

namespace Sys2Proof.Machine

/-- `PAY_SHIFT(d)` (R120). -/
def payShift (d : Bit) (s : State) : State × Option Packet :=
  ({ s with pbyte := shiftIn s.pbyte d, bitIdx := s.bitIdx + 1 }, none)

/-- `PAY_COMMIT(d)` (R121): the eighth bit of a byte that is not the packet's last. -/
def payCommit (d : Bit) (s : State) : State × Option Packet :=
  ({ bufWrite s.byteCnt (shiftIn s.pbyte d) s with byteCnt := s.byteCnt + 1, bitIdx := 0, pbyte := 0 }, none)

/-- `PAY_LAST(d)` (R122): the last byte is committed, the packet is emitted with the buffer as it is after that write,
and the machine returns to `SYNC_SEARCH`. Outside the states of R31 the length may differ from `byte_cnt + 1`: DEDUCED,
log entry 7; unsafe there. -/
def payLast (d : Bit) (s : State) : State × Option Packet :=
  let written := bufWrite s.byteCnt (shiftIn s.pbyte d) s
  (enterSearch written, some ⟨bufPrefix s.pktLen written, s.pktLen⟩)

end Sys2Proof.Machine
end

