-- ==== Sys2Proof/Machine/Data.lean ====
section
/-! DEFINITION. The `DATA` item: the dispatch on the control state of 40_frame_sync.md R80. -/

namespace Sys2Proof.Machine

/-- A `DATA` item, dispatched as R80 writes it: the tests of the counters are in exact integers. -/
def dataItem (d : Bit) (s : State) : State × Option Packet :=
  match s.st with
  | .syncSearch => dataSearch d s
  | .haveSync => if s.hdrCnt.toNat + 1 < Config.headerBits then hdrShift d s else hdrDone d s
  | .haveHeader =>
    if s.bitIdx.toNat + 1 < Config.byteBits then payShift d s
    else if s.byteCnt.toNat + 1 < s.pktLen.toNat then payCommit d s
    else payLast d s

/-- The meaning of a `DATA` item at a clock edge: its step and its output on the pins (30_encoding.md R68). -/
def execData (d : Bit) (s : State) : Host.Outcome State Fault Refusal := .next (publish (dataItem d s))

end Sys2Proof.Machine
end

