-- ==== Sys2Proof/Machine/Dispatch.lean ====
section
/-! DEFINITION. The meaning of every item kind (opcode_table.json), one arm per constructor. -/

namespace Sys2Proof.Machine

/-- One item's effect at the clock edge that accepts it, the output pins included (40_frame_sync.md R80: the start flag
is tested first, in every state). DESIGN CHOICE, log entry 15; safe. -/
def exec (i : Instr) (s : State) : Host.Outcome State Fault Refusal :=
  match i with
  | .sync d => Sys2Proof.Machine.execSync d s
  | .data d => Sys2Proof.Machine.execData d s

end Sys2Proof.Machine
end

