-- ==== Sys2Proof/Machine/Stream.lean ====
section
/-! DEFINITION. The item-stream notation of 30_encoding.md R69, as lists of items and of clock edges. -/

namespace Sys2Proof.Machine

/-- Bit `i` of a word as an operand. -/
def bitOf {w : Nat} (v : BitVec w) (i : Nat) : Bit := v.extractLsb' i 1

/-- `HDR(H)`: one item per header bit, most significant bit first; the first is the sync item. -/
def hdrItems (h : Header) : List Instr :=
  .sync (bitOf h (Config.headerBits - 1)) ::
    (List.range (Config.headerBits - 1)).map fun k => .data (bitOf h (Config.headerBits - 2 - k))

/-- The items of one byte, most significant bit first. -/
def byteItems (b : Byte) : List Instr := (List.range Config.byteBits).map fun k => .data (bitOf b (Config.byteBits - 1 - k))

/-- `BYTES(b0, b1, ...)`. -/
def bytesItems (bs : List Byte) : List Instr := bs.flatMap byteItems

/-- `DBITS"..."`. -/
def dbitsItems (bits : List Bit) : List Instr := bits.map .data

/-- An edge at which no item is supplied and reset is low. -/
def Edge.idle {n : Nat} : Edge n := ⟨false, false, 0⟩

/-- `IDLE(n)`: `n` cycles without an item. -/
def idleEdges {extraBits : Nat} (n : Nat) : List (Edge extraBits) := List.replicate n Edge.idle

/-- The items that a run of edges without reset supplies, in order (30_encoding.md R68). -/
def suppliedItems {n : Nat} (edges : List (Edge n)) : List Instr :=
  edges.filterMap fun e => if e.inValid then some (decode e.inItem) else none

end Sys2Proof.Machine
end

