-- ==== Sys2Proof/Machine/Pins.lean ====
section
/-! DEFINITION. The pin level: one rising edge of `clk` (30_encoding.md R67, R68) and the sink's read port. -/

namespace Sys2Proof.Machine

/-- The pins at the next edge, and the state with that edge taken off the list. When no edge is listed, no item arrives
and the edge is idle (40_frame_sync.md R89): DESIGN CHOICE, log entry 1; unsafe past the end of the list. -/
def nextEdge (s : State) : Edge s.extraBits × State :=
  match s.inputs with
  | [] => (Edge.idle, s)
  | e :: rest => (e, { s with inputs := rest })

/-- One rising edge (30_encoding.md R68): reset wins over an item (60_exceptions.md R146), a valid item is consumed, and
an idle edge only clears the strobe. A build with the whitener on is refused (00_scope.md R11): DEDUCED, log entry 8; safe. -/
def clockEdge {n : Nat} (whitenerEn : Bool) (e : Edge n) (s : State) : Host.Outcome State Fault Refusal :=
  if WellFormed.whitenerOk whitenerEn = false then .refused .whitenerEnabled
  else if e.rst then .next (resetEdge s)
  else if e.inValid then exec (decode e.inItem) s
  else .next (publish (s, none))

/-- `rd_data` for the read index `rdAddr`, read combinationally from the stored array (30_encoding.md R67, R68). -/
def State.rdData (s : State) (rdAddr : Index) : Byte := bufRead rdAddr s

/-- The pin levels with which upstream presents an instruction of opcode_table.json at an edge. -/
def tableEdge (extraBits nbits w : Nat) : Edge extraBits := ⟨false, true, tableLevels _ nbits w⟩

end Sys2Proof.Machine
end

