-- ==== Sys2Proof/Machine/Step.lean ====
section
/-! DEFINITION. One step: the next rising edge of `clk`. -/

namespace Sys2Proof.Machine

/-- Takes the next edge's pins and applies that edge. -/
def step (s : State) : Host.Outcome State Fault Refusal :=
  clockEdge Config.whitenerEn (nextEdge s).1 (nextEdge s).2

/-- `s` with one more edge ahead of those listed, at which upstream presents the instruction whose bits are `w` (log
entry 4). -/
def State.withFetchWord (s : State) (nbits w : Nat) : State :=
  { s with inputs := tableEdge s.extraBits nbits w :: s.inputs }

end Sys2Proof.Machine
end

