-- ==== Sys2Proof/Machine/Transaction.lean ====
section
/-! DEFINITION. The transaction-level semantics of 00_scope.md R16: `step : State × Item → State × Option Packet` and
its fold over a batch. The output registers belong to the pin level (10_state.md R35) and stay as they are here. -/

namespace Sys2Proof.Machine

/-- `step(s, (f, d))` (40_frame_sync.md R80). -/
def stepItem : Instr → State → State × Option Packet
  | .sync d, s => syncItem d s
  | .data d, s => dataItem d s

/-- `process(items)` (00_scope.md R16): the items in order, collecting the emitted packets in order. -/
def process : List Instr → State → State × List Packet
  | [], s => (s, [])
  | i :: items, s =>
    let r := stepItem i s
    let rest := process items r.1
    (rest.1, r.2.toList ++ rest.2)

end Sys2Proof.Machine
end

