-- ==== Sys2Proof/Safety.lean ====
section
/-! DEFINITION. What the claims call a good state: the invariants of 10_state.md R31. -/

namespace Sys2Proof.Machine

/-- The lengths the normative decoder can declare (41_header.md R103, R104). -/
def DecodedLength (len : Index) : Prop := len = 5 ∨ len = 260

/-- The payload registers hold 0 (10_state.md R31). -/
def PayloadIdle (s : State) : Prop :=
  s.pktLen = 0 ∧ s.whOff = 0 ∧ s.pbyte = 0 ∧ s.bitIdx = 0 ∧ s.byteCnt = 0

/-- The `SYNC_SEARCH` row of R31: every register holds 0. It is also the reset state's row (R32). -/
def Canonical (s : State) : Prop := s.st = .syncSearch ∧ s.hdr = 0 ∧ s.hdrCnt = 0 ∧ PayloadIdle s

/-- The row of R31 for the control state that `s` is in. -/
def RegistersOk (s : State) : Prop :=
  match s.st with
  | .syncSearch => s.hdr = 0 ∧ s.hdrCnt = 0 ∧ PayloadIdle s
  | .haveSync => s.hdr.toNat < 2 ^ s.hdrCnt.toNat ∧ 1 ≤ s.hdrCnt.toNat ∧ PayloadIdle s
  | .haveHeader =>
    s.hdr = 0 ∧ s.hdrCnt = 0 ∧ DecodedLength s.pktLen ∧ s.whOff = 0 ∧ s.pbyte.toNat < 2 ^ s.bitIdx.toNat ∧
      s.byteCnt.toNat < s.pktLen.toNat

/-- In `HAVE_HEADER` the bytes committed in the current packet are in the buffer (R31). -/
def CommittedOk (s : State) : Prop := ∀ j < s.byteCnt.toNat, (s.buf.lookup j).isSome

/-- A delivered packet has exactly `length` bytes (30_encoding.md R66) and a decoded length. -/
def PacketOk (p : Packet) : Prop := p.bytes.length = p.length.toNat ∧ DecodedLength p.length

/-- While `out_valid` is up, `out_len` is the length of the packet delivered last (R35). -/
def StrobeOk (s : State) : Prop :=
  s.outValid = true → ∃ p, s.delivered.getLast? = some p ∧ p.length = s.outLen

/-- The machine's invariant. -/
structure Inv (s : State) : Prop where
  registers : RegistersOk s
  committed : CommittedOk s
  memory : s.buf.wf
  packets : ∀ p ∈ s.delivered, PacketOk p
  strobe : StrobeOk s

/-- `k` clock edges stop nowhere. -/
def RunsOn (k : Nat) (s : State) : Prop := ∃ t, Sys2Proof.core.run k s = .next t

end Sys2Proof.Machine
end

