-- ==== Sys2Proof/Certificates/Slice0/Obligations.lean ====
section
/-! DEFINITION. The statements for the provers. Each docstring names the rule of spec/ it formalises. -/

open Sys2Proof Sys2Proof.Machine

/-! ## Encoding -/

/-- 30_encoding.md R60, R62: bit 1 selects the kind, bit 0 is the operand; a one-bit port is refused (00_scope.md R12). -/
def Obligations.ItemWordsDecodeByFlagAndDataBit : Prop :=
  decodePort 2 0b00#2 = .ok (.data 0) ∧ decodePort 2 0b01#2 = .ok (.data 1) ∧
  decodePort 2 0b10#2 = .ok (.sync 0) ∧ decodePort 2 0b11#2 = .ok (.sync 1) ∧
  decodePort 8 0xFE#8 = .ok (.sync 0) ∧ decodePort 1 1#1 = .error .unitTooNarrow

/-- 30_encoding.md R60 to R64: every item comes back from its unit with any ignored bits, and every unit is the unit of
the item it decodes to. -/
def Obligations.DecodeAndEncodeAgree : Prop :=
  (∀ (i : Instr) (n : Nat) (x : BitVec n), i.wf = true → decode (encode x i) = i) ∧
  (∀ (n : Nat) (u : TransportUnit n), (decode u).wf = true ∧ ∃ x : BitVec n, encode x (decode u) = u)

/-- 30_encoding.md R64: every value of a port of at least two bits is a legal item, the bits above bit 1 have no effect
on any step, whatever the other pins are, and no item is rejected. -/
def Obligations.IgnoredBitsHaveNoEffect : Prop :=
  (∀ (w : Nat) (v : BitVec w), 2 ≤ w → ∃ i, decodePort w v = .ok i ∧ i.wf = true) ∧
  (∀ (n n' : Nat) (u : TransportUnit n) (u' : TransportUnit n'),
    u.getLsbD 0 = u'.getLsbD 0 → u.getLsbD 1 = u'.getLsbD 1 → decode u = decode u') ∧
  (∀ (s : State) (rst valid : Bool) (u u' : TransportUnit s.extraBits) (rest : List (Edge s.extraBits)),
    u.getLsbD 0 = u'.getLsbD 0 → u.getLsbD 1 = u'.getLsbD 1 →
    step { s with inputs := ⟨rst, valid, u⟩ :: rest } = step { s with inputs := ⟨rst, valid, u'⟩ :: rest }) ∧
  (∀ (s : State) (u : TransportUnit s.extraBits) (rest : List (Edge s.extraBits)),
    ∃ t, step { s with inputs := ⟨false, true, u⟩ :: rest } = .next t)

/-! ## The step -/

/-- 30_encoding.md R67, R68, 40_frame_sync.md R80: a valid item at an edge without reset is taken off the input and its
decoded meaning runs. -/
def Obligations.StepRunsTheDecodedItem : Prop :=
  ∀ (s : State) (u : TransportUnit s.extraBits) (i : Instr) (rest : List (Edge s.extraBits)),
    s.inputs = ⟨false, true, u⟩ :: rest → decode u = i → step s = exec i { s with inputs := rest }

/-- 60_exceptions.md R153: no exception, no refused item, no stop, at one step, at one item and over any number of
edges. -/
def Obligations.BlockNeverStops : Prop :=
  (∀ s : State, ∃ t, step s = .next t) ∧ (∀ (i : Instr) (s : State), ∃ t, exec i s = .next t) ∧
  (∀ (k : Nat) (s : State), RunsOn k s)

/-- 00_scope.md R16, 20_memory.md R52: a batch is processed item by item in order, and its packets are collected in
order; cutting a batch in two changes nothing. -/
def Obligations.BatchIsTheFoldOfTheStep : Prop :=
  (∀ s : State, process [] s = (s, [])) ∧
  (∀ (i : Instr) (s : State), process [i] s = ((stepItem i s).1, (stepItem i s).2.toList)) ∧
  (∀ (a b : List Instr) (s : State),
    process (a ++ b) s =
      ((process b (process a s).1).1, (process a s).2 ++ (process b (process a s).1).2))

/-- 30_encoding.md R67, R68: the pin level agrees with the transaction level. Over any edges without reset, idle edges
and ignored bits included, the packets delivered are those of the batch of the supplied items, `out_len` is the last
one's length, and every other field but the strobe is the batch's. -/
def Obligations.PinLevelAgreesWithTransactions : Prop :=
  ∀ (s : State) (edges : List (Edge s.extraBits)), (∀ e ∈ edges, e.rst = false) →
    ∃ t, Sys2Proof.core.run edges.length { s with inputs := edges } = .next t ∧
      t.delivered = s.delivered ++ (process (suppliedItems edges) s).2 ∧
      t.outLen = ((process (suppliedItems edges) s).2.getLast?.map Packet.length).getD s.outLen ∧
      t = { (process (suppliedItems edges) s).1 with
              inputs := [], delivered := t.delivered, outValid := t.outValid, outLen := t.outLen }

/-! ## Frame synchronizer -/

/-- 40_frame_sync.md R84: a `SYNC` item in any state starts a new header with its own bit and changes nothing else; the
buffer and the packets delivered stay, and nothing is emitted. -/
def Obligations.SyncItemStartsANewHeader : Prop :=
  ∀ (d : Bit) (s : State),
    exec (.sync d) s = .next { s with
      st := .haveSync, hdr := d.setWidth 32, hdrCnt := 1, pktLen := 0, whOff := 0, pbyte := 0, bitIdx := 0,
      byteCnt := 0, outValid := false }

/-- 40_frame_sync.md R82: a `DATA` item in `SYNC_SEARCH` changes nothing, whatever its bit; `out_valid` falls as at
every edge without an emission (30_encoding.md R68). -/
def Obligations.SearchIgnoresDataItems : Prop :=
  (∀ (d : Bit) (s : State), s.st = .syncSearch → exec (.data d) s = .next { s with outValid := false }) ∧
  (∀ (d : Bit) (s : State), s.st = .syncSearch → stepItem (.data d) s = (s, none)) ∧
  process (dbitsItems [1, 0, 1, 1, 0]) State.reset = (State.reset, [])

/-- 40_frame_sync.md R88: without a sync item nothing is emitted and the state stays as it is. -/
def Obligations.NoSyncItemNoPacket : Prop :=
  ∀ (items : List Instr) (s : State), s.st = .syncSearch → (∀ i ∈ items, ∃ d, i = .data d) →
    process items s = (s, [])

/-- 10_state.md R21 and 40_frame_sync.md R90: what leads into each control state, by the rows of R90. Outside the
states of 10_state.md R31 the last row reads as the model does, `byte_cnt + 1` not below `pkt_len` (log entry 7); inside
them it is equal. -/
def Obligations.ControlStateEntries : Prop :=
  ∀ (i : Instr) (s t : State), exec i s = .next t →
    (t.st = .haveSync →
      (∃ d, i = .sync d) ∨ ((∃ d, i = .data d) ∧ s.st = .haveSync ∧ s.hdrCnt.toNat < 31)) ∧
    (t.st = .haveHeader → (∃ d, i = .data d) ∧
      ((s.st = .haveHeader ∧ (s.bitIdx.toNat < 7 ∨ s.byteCnt.toNat + 1 < s.pktLen.toNat)) ∨
       (s.st = .haveSync ∧ s.hdrCnt = 31 ∧
        ∀ d, i = .data d → weight ((s.hdr <<< 1) ||| d.setWidth 32) ≠ 12))) ∧
    (t.st = .syncSearch → (∃ d, i = .data d) ∧
      (s.st = .syncSearch ∨
       (s.st = .haveSync ∧ s.hdrCnt = 31 ∧
        ∀ d, i = .data d → weight ((s.hdr <<< 1) ||| d.setWidth 32) = 12) ∨
       (s.st = .haveHeader ∧ s.bitIdx = 7 ∧ s.pktLen.toNat ≤ s.byteCnt.toNat + 1 ∧
        (RegistersOk s → s.byteCnt.toNat + 1 = s.pktLen.toNat))))

/-- 10_state.md R21: the register codes of the control state; `2'b11` reads as `SYNC_SEARCH`. -/
def Obligations.ControlStateCodes : Prop :=
  Ctrl.code .syncSearch = 0b00#2 ∧ Ctrl.code .haveSync = 0b01#2 ∧ Ctrl.code .haveHeader = 0b10#2 ∧
  (∀ c, Ctrl.ofCode (Ctrl.code c) = c) ∧ Ctrl.ofCode 0b11#2 = .syncSearch

/-! ## Header -/

/-- 41_header.md R100: header shift. The count never wraps, and in a state of 10_state.md R31 the bit shifted out is 0. -/
def Obligations.HeaderShiftTakesTheDataBit : Prop :=
  ∀ (d : Bit) (s : State), s.st = .haveSync → s.hdrCnt.toNat < 31 →
    exec (.data d) s = .next { s with
      hdr := (s.hdr <<< 1) ||| d.setWidth 32, hdrCnt := s.hdrCnt + 1, outValid := false } ∧
    (s.hdrCnt + 1).toNat = s.hdrCnt.toNat + 1 ∧
    (RegistersOk s → s.hdr.getLsbD 31 = false)

/-- 20_memory.md R45: header bits are taken most significant first. After the first 31 items of `HDR(H)`, from any
state, the register holds bits 31 to 1 of `H`, and the last item completes `H`. -/
def Obligations.HeaderIsSentMostSignificantBitFirst : Prop :=
  ∀ (h : Header) (s : State),
    process ((hdrItems h).take 31) s =
      ({ s with st := .haveSync, hdr := h >>> 1, hdrCnt := 31, pktLen := 0, whOff := 0, pbyte := 0, bitIdx := 0,
                byteCnt := 0 }, []) ∧
    (hdrItems h).drop 31 = [.data (h.extractLsb' 0 1)] ∧
    ((h >>> 1) <<< 1) ||| (h.extractLsb' 0 1).setWidth 32 = h

/-- 41_header.md R102: the weight counts the set bits among 0 to 11 and 16 to 27, so it is at most 24, and no other bit
counts. -/
def Obligations.VoteWeightCountsTheVotedBits : Prop :=
  (∀ h : Header,
    weight h = (List.range 12).countP (fun i => h.getLsbD i) + (List.range 12).countP (fun i => h.getLsbD (16 + i)) ∧
    weight h ≤ 24) ∧
  (∀ h h' : Header, (∀ i < 12, h.getLsbD i = h'.getLsbD i ∧ h.getLsbD (16 + i) = h'.getLsbD (16 + i)) →
    weight h = weight h')

/-- 41_header.md R103: the decode and its thresholds; a tied vote does not lead to `HAVE_HEADER`. -/
def Obligations.DecodeHeaderThresholds : Prop :=
  (∀ h : Header,
    (weight h < 12 → decodeHeader h = some 0x00000005#32) ∧
    (12 < weight h → decodeHeader h = some 0x00000104#32) ∧
    (weight h = 12 → decodeHeader h = none)) ∧
  (∀ (d : Bit) (s : State), weight ((s.hdr <<< 1) ||| d.setWidth 32) = 12 → (hdrDone d s).1.st = .syncSearch)

/-- 41_header.md R104: the length is the low 12 bits, the offset is 0; a decoded header declares 5 or 260. -/
def Obligations.HeaderPayloadIsTheLowTwelveBits : Prop :=
  (∀ v : Header, headerPayload v = (v.setWidth 12, 0)) ∧
  (∀ h v : Header, decodeHeader h = some v → (headerPayload v).1 = 5 ∨ (headerPayload v).1 = 260)

/-- 41_header.md R101, R103, R108, R109: the 32nd header bit, by the vote. -/
def Obligations.HeaderCompletionFollowsTheVote : Prop :=
  ∀ (d : Bit) (s : State), s.st = .haveSync → s.hdrCnt = 31 →
    (weight ((s.hdr <<< 1) ||| d.setWidth 32) = 12 →
      exec (.data d) s = .next { s with
        st := .syncSearch, hdr := 0, hdrCnt := 0, pktLen := 0, whOff := 0, pbyte := 0, bitIdx := 0, byteCnt := 0,
        outValid := false }) ∧
    (weight ((s.hdr <<< 1) ||| d.setWidth 32) < 12 →
      exec (.data d) s = .next { s with
        st := .haveHeader, hdr := 0, hdrCnt := 0, pktLen := 5, whOff := 0, pbyte := 0, bitIdx := 0, byteCnt := 0,
        outValid := false }) ∧
    (12 < weight ((s.hdr <<< 1) ||| d.setWidth 32) →
      exec (.data d) s = .next { s with
        st := .haveHeader, hdr := 0, hdrCnt := 0, pktLen := 260, whOff := 0, pbyte := 0, bitIdx := 0, byteCnt := 0,
        outValid := false })

/-- 41_header.md R106, R107, R108: over capacity is rejected without output, a zero length emits an empty packet at
once, any other length enters `HAVE_HEADER`; with the block's own capacity and decoder only the last can happen. -/
def Obligations.DeclaredLengthIsCheckedInOrder : Prop :=
  (∀ (capacity : Nat) (len : Index) (off : BitVec 4) (s : State),
    (capacity < len.toNat → acceptHeader capacity (len, off) s =
      ({ s with st := .syncSearch, hdr := 0, hdrCnt := 0, pktLen := 0, whOff := 0, pbyte := 0, bitIdx := 0,
                byteCnt := 0 }, none)) ∧
    (len = 0 → acceptHeader capacity (len, off) s =
      ({ s with st := .syncSearch, hdr := 0, hdrCnt := 0, pktLen := 0, whOff := 0, pbyte := 0, bitIdx := 0,
                byteCnt := 0 }, some ⟨[], 0⟩)) ∧
    (len.toNat ≤ capacity → len ≠ 0 → acceptHeader capacity (len, off) s =
      ({ s with st := .haveHeader, hdr := 0, hdrCnt := 0, pktLen := len, whOff := off, pbyte := 0, bitIdx := 0,
                byteCnt := 0 }, none))) ∧
  (∀ h v : Header, decodeHeader h = some v →
    (headerPayload v).1.toNat ≤ Config.capacity ∧ (headerPayload v).1 ≠ 0)

/-- 41_header.md R105: at header completion the header bits 15 to 12 and 31 to 28 affect nothing. Two headers that agree
on the voted bits leave the same machine. -/
def Obligations.ReservedHeaderBitsAffectNothing : Prop :=
  ∀ (d d' : Bit) (hdr' : BitVec 32) (s : State), s.st = .haveSync → s.hdrCnt = 31 →
    (∀ i < 12,
      ((s.hdr <<< 1) ||| d.setWidth 32).getLsbD i = ((hdr' <<< 1) ||| d'.setWidth 32).getLsbD i ∧
      ((s.hdr <<< 1) ||| d.setWidth 32).getLsbD (16 + i) = ((hdr' <<< 1) ||| d'.setWidth 32).getLsbD (16 + i)) →
    exec (.data d) s = exec (.data d') { s with hdr := hdr' }

/-- 41_header.md R111: a header of two equal halves is judged by the bits of its 12-bit length field. -/
def Obligations.RepetitionHeaderVote : Prop :=
  ∀ (n : BitVec 12) (x : BitVec 4),
    weight (x ++ n ++ x ++ n) = 2 * (List.range 12).countP (fun i => n.getLsbD i) ∧
    ((List.range 12).countP (fun i => n.getLsbD i) < 6 → decodeHeader (x ++ n ++ x ++ n) = some 5) ∧
    (6 < (List.range 12).countP (fun i => n.getLsbD i) → decodeHeader (x ++ n ++ x ++ n) = some 260) ∧
    ((List.range 12).countP (fun i => n.getLsbD i) = 6 → decodeHeader (x ++ n ++ x ++ n) = none)

/-- 41_header.md R109: a tied header never gives a packet, and the would-be payload is not taken as payload. -/
def Obligations.TiedHeaderPayloadIsIgnored : Prop :=
  ∀ (h : Header) (bits : List Bit) (s : State), weight h = 12 →
    process (hdrItems h ++ dbitsItems bits) s =
      ({ s with st := .syncSearch, hdr := 0, hdrCnt := 0, pktLen := 0, whOff := 0, pbyte := 0, bitIdx := 0,
                byteCnt := 0 }, [])

/-- 00_scope.md R11: the whitener flag is off and the offset output is 0. The third clause says at which point a build
with the flag on is refused: at every edge, whatever the pins and the state are. R11 orders the refusal and not its
point, which is the model's choice (DEDUCED, log entry 8). -/
def Obligations.WhitenerBuildIsRefused : Prop :=
  Config.whitenerEn = false ∧ (∀ v : Header, (headerPayload v).2 = 0) ∧
  (∀ (n : Nat) (e : Edge n) (s : State), clockEdge true e s = .refused .whitenerEnabled)

/-- 10_state.md R25: `wh_off` stays 0 through every step, from every state in which it is 0. -/
def Obligations.WhitenerOffsetStaysZero : Prop :=
  ∀ s t : State, s.whOff = 0 → step s = .next t → t.whOff = 0

/-! ## Payload -/

/-- 42_payload.md R120: payload shift. The bit index never wraps, and in a state of 10_state.md R31 no bit is
lost and a byte starts from an empty accumulator. -/
def Obligations.PayloadShiftTakesTheDataBit : Prop :=
  ∀ (d : Bit) (s : State), s.st = .haveHeader → s.bitIdx.toNat < 7 →
    exec (.data d) s = .next { s with
      pbyte := (s.pbyte <<< 1) ||| d.setWidth 8, bitIdx := s.bitIdx + 1, outValid := false } ∧
    (s.bitIdx + 1).toNat = s.bitIdx.toNat + 1 ∧
    (RegistersOk s → ((s.pbyte <<< 1) ||| d.setWidth 8).toNat = 2 * s.pbyte.toNat + d.toNat) ∧
    (RegistersOk s → s.bitIdx = 0 → s.pbyte = 0)

/-- 42_payload.md R121: the eighth bit of a byte that is not the last commits that byte at index `byte_cnt` and leaves
every other buffer byte and every other register alone. That a byte nothing has written since reset also reads as before
is the model's (DEDUCED, log entry 6; 20_memory.md R43 gives it no defined value). -/
def Obligations.ByteCommitWritesOneByte : Prop :=
  ∀ (d : Bit) (s : State), s.st = .haveHeader → s.bitIdx = 7 → s.byteCnt.toNat + 1 < s.pktLen.toNat →
    ∃ t, exec (.data d) s = .next t ∧
      t = { s with buf := t.buf, byteCnt := s.byteCnt + 1, bitIdx := 0, pbyte := 0, outValid := false } ∧
      t.byteCnt.toNat = s.byteCnt.toNat + 1 ∧ t.byteCnt.toNat < t.pktLen.toNat ∧
      t.buf.lookup s.byteCnt.toNat = some ((s.pbyte <<< 1) ||| d.setWidth 8) ∧
      bufRead s.byteCnt t = (s.pbyte <<< 1) ||| d.setWidth 8 ∧
      (∀ a, a ≠ s.byteCnt → bufRead a t = bufRead a s)

/-- 42_payload.md R122: the last payload bit commits the last byte, emits the packet once and returns to `SYNC_SEARCH`
in one step; the sink finds the same bytes at the read port (30_encoding.md R68), with `out_valid` and `out_len` set
(10_state.md R35). That a byte nothing has written since reset reads as before is the model's (DEDUCED, log entry 6). -/
def Obligations.LastPayloadBitEmitsThePacket : Prop :=
  ∀ (d : Bit) (s : State), s.st = .haveHeader → s.bitIdx = 7 → s.byteCnt.toNat + 1 = s.pktLen.toNat →
    ∃ (t : State) (p : Packet), exec (.data d) s = .next t ∧
      t = { s with
        st := .syncSearch, hdr := 0, hdrCnt := 0, pktLen := 0, whOff := 0, pbyte := 0, bitIdx := 0, byteCnt := 0,
        buf := t.buf, outValid := true, outLen := s.pktLen, delivered := s.delivered ++ [p] } ∧
      p.length = s.pktLen ∧ p.bytes.length = s.pktLen.toNat ∧
      (∀ j, j + 1 < s.pktLen.toNat → p.bytes[j]? = some (bufRead (BitVec.ofNat 12 j) s)) ∧
      p.bytes[s.pktLen.toNat - 1]? = some ((s.pbyte <<< 1) ||| d.setWidth 8) ∧
      (∀ j, j < s.pktLen.toNat → p.bytes[j]? = some (t.rdData (BitVec.ofNat 12 j))) ∧
      (∀ a, a ≠ s.byteCnt → bufRead a t = bufRead a s)

/-- 20_memory.md R46: eight payload bits form one byte, the first in bit 7 and the eighth in bit 0, whatever the
accumulator held before. -/
def Obligations.EightDataBitsFormOneByte : Prop :=
  ∀ (b : Byte) (s : State), s.st = .haveHeader → s.bitIdx = 0 → s.byteCnt.toNat + 1 < s.pktLen.toNat →
    process [.data (b.extractLsb' 7 1), .data (b.extractLsb' 6 1), .data (b.extractLsb' 5 1),
             .data (b.extractLsb' 4 1), .data (b.extractLsb' 3 1), .data (b.extractLsb' 2 1),
             .data (b.extractLsb' 1 1), .data (b.extractLsb' 0 1)] s =
      ({ bufWrite s.byteCnt b s with byteCnt := s.byteCnt + 1, pbyte := 0 }, [])

/-- 42_payload.md R127 with R124, R125 and 20_memory.md R47: from any state, a header that is not tied, followed by as
many bytes as it declares, delivers exactly those bytes and ends in `SYNC_SEARCH`, with the bytes in the buffer and
every other buffer byte as before. For a byte nothing has written since reset, the last is the model's (DEDUCED, log
entry 6). -/
def Obligations.RoundTripDeliversThePayload : Prop :=
  ∀ (h : Header) (bs : List Byte) (s : State), weight h ≠ 12 →
    bs.length = (if weight h < 12 then 5 else 260) →
    ∃ t, process (hdrItems h ++ bytesItems bs) s = (t, [⟨bs, BitVec.ofNat 12 bs.length⟩]) ∧
      t = { s with
        st := .syncSearch, hdr := 0, hdrCnt := 0, pktLen := 0, whOff := 0, pbyte := 0, bitIdx := 0, byteCnt := 0,
        buf := t.buf } ∧
      (∀ j : Index, bufRead j t = bs[j.toNat]?.getD (bufRead j s))

/-- 40_frame_sync.md R85: a `SYNC` item that arrives after 1 to 31 header items restarts the header. Only the second
header counts, from any state. -/
def Obligations.ResyncInTheHeaderRestartsIt : Prop :=
  ∀ (k : Nat) (h h' : Header) (bs : List Byte) (s : State), 1 ≤ k → k ≤ 31 → weight h' ≠ 12 →
    bs.length = (if weight h' < 12 then 5 else 260) →
    (process ((hdrItems h).take k ++ hdrItems h' ++ bytesItems bs) s).2 = [⟨bs, BitVec.ofNat 12 bs.length⟩]

/-- 40_frame_sync.md R86: a `SYNC` item at any payload position, the last bit's included, abandons the packet, which is
never delivered; the second header's packet is. -/
def Obligations.ResyncInThePayloadAbandonsThePacket : Prop :=
  ∀ (h h' : Header) (bits : List Bit) (bs : List Byte) (s : State), weight h ≠ 12 →
    bits.length < 8 * (if weight h < 12 then 5 else 260) → weight h' ≠ 12 →
    bs.length = (if weight h' < 12 then 5 else 260) →
    (process (hdrItems h ++ dbitsItems bits ++ hdrItems h' ++ bytesItems bs) s).2 =
      [⟨bs, BitVec.ofNat 12 bs.length⟩]

/-- 42_payload.md R123 and 10_state.md R33: at an item, the sink receives a packet only at the last payload bit (outside the
states of R31 the model's reading of it, log entry 7). -/
def Obligations.OnlyTheLastPayloadBitEmits : Prop :=
  ∀ (i : Instr) (s t : State), exec i s = .next t → t.delivered ≠ s.delivered →
    (∃ d, i = .data d) ∧ s.st = .haveHeader ∧ s.bitIdx = 7 ∧ s.pktLen.toNat ≤ s.byteCnt.toNat + 1 ∧
    (RegistersOk s → s.byteCnt.toNat + 1 = s.pktLen.toNat)

/-- 42_payload.md R126: every step from a state of the invariant that leads to `HAVE_HEADER` leaves fewer bits written
than declared, and no more declared than the buffer holds; the invariant's `HAVE_HEADER` states have these bounds. -/
def Obligations.PayloadStaysInBounds : Prop :=
  (∀ s t : State, Inv s → step s = .next t → t.st = .haveHeader →
    8 * t.byteCnt.toNat + t.bitIdx.toNat < 8 * t.pktLen.toNat ∧ 8 * t.pktLen.toNat ≤ 8 * Config.capacity) ∧
  (∀ s : State, RegistersOk s → s.st = .haveHeader →
    8 * s.byteCnt.toNat + s.bitIdx.toNat < 8 * s.pktLen.toNat ∧ 8 * s.pktLen.toNat ≤ 8 * Config.capacity)

/-! ## Pins and timing -/

/-- 10_state.md R35, 70_reset_and_hazards.md R166: after every edge `out_valid` is up exactly when that edge delivered a
packet; then `out_len` is its length, and otherwise it keeps its value but for a reset edge, which clears it. -/
def Obligations.StrobeFollowsTheEmission : Prop :=
  ∀ s t : State, step s = .next t →
    (t.outValid = true ∧ ∃ p, t.delivered = s.delivered ++ [p] ∧ t.outLen = p.length) ∨
    (t.outValid = false ∧ t.delivered = s.delivered ∧
      t.outLen = if (nextEdge s).1.rst then 0 else s.outLen)

/-- 70_reset_and_hazards.md R167, 42_payload.md R125: an item that emits leaves `SYNC_SEARCH`, and the fewer than 72
items after it, the next emitting item not among them, emit nothing; nor do fewer than 72 items from any state in
`SYNC_SEARCH`. -/
def Obligations.EmissionsAreSeventyTwoItemsApart : Prop :=
  (∀ (i : Instr) (items : List Instr) (s : State), (stepItem i s).2 ≠ none →
    (stepItem i s).1.st = .syncSearch ∧ (items.length < 72 → (process items (stepItem i s).1).2 = [])) ∧
  (∀ (items : List Instr) (s : State), s.st = .syncSearch → items.length < 72 → (process items s).2 = [])

/-- 70_reset_and_hazards.md R165: from `SYNC_SEARCH`, over edges without reset, `rd_data` at index `j` keeps its value
until the `40 + 8j`-th item is accepted. R165 speaks of a packet's bytes; that a byte nothing has written since reset
keeps its value too is the model's (DEDUCED, log entry 6). -/
def Obligations.BufferReadWindow : Prop :=
  ∀ (s : State) (edges : List (Edge s.extraBits)) (j : Index), s.st = .syncSearch → (∀ e ∈ edges, e.rst = false) →
    (suppliedItems edges).length < 40 + 8 * j.toNat →
    ∃ t, Sys2Proof.core.run edges.length { s with inputs := edges } = .next t ∧ t.rdData j = s.rdData j

/-- 40_frame_sync.md R89, 30_encoding.md R68: an edge without an item only clears `out_valid`. The second clause, an
input list that has run out, is the model's choice (log entry 1). -/
def Obligations.IdleEdgeOnlyClearsTheStrobe : Prop :=
  (∀ (s : State) (u : TransportUnit s.extraBits) (rest : List (Edge s.extraBits)), s.inputs = ⟨false, false, u⟩ :: rest →
    step s = .next { s with inputs := rest, outValid := false }) ∧
  (∀ s : State, s.inputs = [] → step s = .next { s with outValid := false })

/-- 70_reset_and_hazards.md R161, R162, 60_exceptions.md R146: at a reset edge every register takes its reset value and
an item at the same edge is lost; nothing is delivered. That no buffer byte stays listed is how the model says
"unspecified" (log entry 5). -/
def Obligations.ResetEdgeWinsOverTheItem : Prop :=
  ∀ (s : State) (valid : Bool) (u : TransportUnit s.extraBits) (rest : List (Edge s.extraBits)),
    s.inputs = ⟨true, valid, u⟩ :: rest →
    ∃ t, step s = .next t ∧ Canonical t ∧ (∀ a, t.buf.lookup a = none) ∧
      t = { s with
        st := .syncSearch, hdr := 0, hdrCnt := 0, pktLen := 0, whOff := 0, pbyte := 0, bitIdx := 0, byteCnt := 0,
        outValid := false, outLen := 0, inputs := rest, buf := t.buf, epoch := t.epoch }

/-- 10_state.md R32: the reset values, at every `ITEM_W` (00_scope.md R12). The empty buffer list, input list and sink
record, and the `ITEM_W` of `State.reset`, are the model's (log entries 1, 2, 3 and 5). -/
def Obligations.ResetStateValues : Prop :=
  (∀ n : Nat,
    Canonical (State.resetOf n) ∧ (State.resetOf n).outValid = false ∧ (State.resetOf n).outLen = 0 ∧
    (State.resetOf n).inputs = [] ∧ (State.resetOf n).delivered = [] ∧
    (∀ a, (State.resetOf n).buf.lookup a = none) ∧ (State.resetOf n).itemW = n + 2) ∧
  ∃ n, State.reset = State.resetOf n

/-! ## Invariants -/

/-- 10_state.md R31 and 30_encoding.md R66 hold at reset, at every `ITEM_W`. -/
def Obligations.ResetMeetsTheInvariant : Prop := Inv State.reset ∧ ∀ n : Nat, Inv (State.resetOf n)

/-- 10_state.md R31: every step keeps the invariant of the control state, the committed bytes, the buffer's canonical
form, the form of the delivered packets and the meaning of the strobe. -/
def Obligations.StepKeepsTheInvariant : Prop :=
  ∀ s t : State, Inv s → step s = .next t → Inv t

/-- 10_state.md R31, 20_memory.md R43: two canonical `SYNC_SEARCH` states deliver the same packets for every batch,
whatever their buffers hold and whatever their free values are. -/
def Obligations.StaleBufferIsNeverDelivered : Prop :=
  ∀ (items : List Instr) (s s' : State), Canonical s → Canonical s' → (process items s).2 = (process items s').2

/-- 00_scope.md R12: `ITEM_W` is a parameter of the instance. No step changes it, and it is at least 2. -/
def Obligations.ItemWidthIsFixed : Prop :=
  ∀ s t : State, step s = .next t → t.itemW = s.itemW ∧ 2 ≤ t.itemW
end

