-- ==== Sys2Proof/Laws/State.lean ====
section
/-! SUPPORT. One lemma per field of the state for each named update (Machine/Ops.lean), so that no proof unfolds a
record update. -/

namespace Sys2Proof.Machine

/-! The fields after `enterSearch s`. -/
@[simp] theorem enterSearch_extraBits (s : State) : (enterSearch s).extraBits = s.extraBits := rfl
@[simp] theorem enterSearch_st (s : State) : (enterSearch s).st = .syncSearch := rfl
@[simp] theorem enterSearch_hdr (s : State) : (enterSearch s).hdr = 0 := rfl
@[simp] theorem enterSearch_hdrCnt (s : State) : (enterSearch s).hdrCnt = 0 := rfl
@[simp] theorem enterSearch_pktLen (s : State) : (enterSearch s).pktLen = 0 := rfl
@[simp] theorem enterSearch_whOff (s : State) : (enterSearch s).whOff = 0 := rfl
@[simp] theorem enterSearch_pbyte (s : State) : (enterSearch s).pbyte = 0 := rfl
@[simp] theorem enterSearch_bitIdx (s : State) : (enterSearch s).bitIdx = 0 := rfl
@[simp] theorem enterSearch_byteCnt (s : State) : (enterSearch s).byteCnt = 0 := rfl
@[simp] theorem enterSearch_buf (s : State) : (enterSearch s).buf = s.buf := rfl
@[simp] theorem enterSearch_outValid (s : State) : (enterSearch s).outValid = s.outValid := rfl
@[simp] theorem enterSearch_outLen (s : State) : (enterSearch s).outLen = s.outLen := rfl
@[simp] theorem enterSearch_inputs (s : State) : (enterSearch s).inputs = s.inputs := rfl
@[simp] theorem enterSearch_delivered (s : State) : (enterSearch s).delivered = s.delivered := rfl
@[simp] theorem enterSearch_epoch (s : State) : (enterSearch s).epoch = s.epoch := rfl

/-! The fields after `enterSync d s`. -/
@[simp] theorem enterSync_extraBits (d : Bit) (s : State) : (enterSync d s).extraBits = s.extraBits := rfl
@[simp] theorem enterSync_st (d : Bit) (s : State) : (enterSync d s).st = .haveSync := rfl
@[simp] theorem enterSync_hdr (d : Bit) (s : State) : (enterSync d s).hdr = d.setWidth _ := rfl
@[simp] theorem enterSync_hdrCnt (d : Bit) (s : State) : (enterSync d s).hdrCnt = 1 := rfl
@[simp] theorem enterSync_pktLen (d : Bit) (s : State) : (enterSync d s).pktLen = 0 := rfl
@[simp] theorem enterSync_whOff (d : Bit) (s : State) : (enterSync d s).whOff = 0 := rfl
@[simp] theorem enterSync_pbyte (d : Bit) (s : State) : (enterSync d s).pbyte = 0 := rfl
@[simp] theorem enterSync_bitIdx (d : Bit) (s : State) : (enterSync d s).bitIdx = 0 := rfl
@[simp] theorem enterSync_byteCnt (d : Bit) (s : State) : (enterSync d s).byteCnt = 0 := rfl
@[simp] theorem enterSync_buf (d : Bit) (s : State) : (enterSync d s).buf = s.buf := rfl
@[simp] theorem enterSync_outValid (d : Bit) (s : State) : (enterSync d s).outValid = s.outValid := rfl
@[simp] theorem enterSync_outLen (d : Bit) (s : State) : (enterSync d s).outLen = s.outLen := rfl
@[simp] theorem enterSync_inputs (d : Bit) (s : State) : (enterSync d s).inputs = s.inputs := rfl
@[simp] theorem enterSync_delivered (d : Bit) (s : State) : (enterSync d s).delivered = s.delivered := rfl
@[simp] theorem enterSync_epoch (d : Bit) (s : State) : (enterSync d s).epoch = s.epoch := rfl

/-! The fields after `enterHaveHeader len off s`. -/
@[simp] theorem enterHaveHeader_extraBits (len : Index) (off : BitVec Config.whOffBits) (s : State) : (enterHaveHeader len off s).extraBits = s.extraBits := rfl
@[simp] theorem enterHaveHeader_st (len : Index) (off : BitVec Config.whOffBits) (s : State) : (enterHaveHeader len off s).st = .haveHeader := rfl
@[simp] theorem enterHaveHeader_hdr (len : Index) (off : BitVec Config.whOffBits) (s : State) : (enterHaveHeader len off s).hdr = 0 := rfl
@[simp] theorem enterHaveHeader_hdrCnt (len : Index) (off : BitVec Config.whOffBits) (s : State) : (enterHaveHeader len off s).hdrCnt = 0 := rfl
@[simp] theorem enterHaveHeader_pktLen (len : Index) (off : BitVec Config.whOffBits) (s : State) : (enterHaveHeader len off s).pktLen = len := rfl
@[simp] theorem enterHaveHeader_whOff (len : Index) (off : BitVec Config.whOffBits) (s : State) : (enterHaveHeader len off s).whOff = off := rfl
@[simp] theorem enterHaveHeader_pbyte (len : Index) (off : BitVec Config.whOffBits) (s : State) : (enterHaveHeader len off s).pbyte = 0 := rfl
@[simp] theorem enterHaveHeader_bitIdx (len : Index) (off : BitVec Config.whOffBits) (s : State) : (enterHaveHeader len off s).bitIdx = 0 := rfl
@[simp] theorem enterHaveHeader_byteCnt (len : Index) (off : BitVec Config.whOffBits) (s : State) : (enterHaveHeader len off s).byteCnt = 0 := rfl
@[simp] theorem enterHaveHeader_buf (len : Index) (off : BitVec Config.whOffBits) (s : State) : (enterHaveHeader len off s).buf = s.buf := rfl
@[simp] theorem enterHaveHeader_outValid (len : Index) (off : BitVec Config.whOffBits) (s : State) : (enterHaveHeader len off s).outValid = s.outValid := rfl
@[simp] theorem enterHaveHeader_outLen (len : Index) (off : BitVec Config.whOffBits) (s : State) : (enterHaveHeader len off s).outLen = s.outLen := rfl
@[simp] theorem enterHaveHeader_inputs (len : Index) (off : BitVec Config.whOffBits) (s : State) : (enterHaveHeader len off s).inputs = s.inputs := rfl
@[simp] theorem enterHaveHeader_delivered (len : Index) (off : BitVec Config.whOffBits) (s : State) : (enterHaveHeader len off s).delivered = s.delivered := rfl
@[simp] theorem enterHaveHeader_epoch (len : Index) (off : BitVec Config.whOffBits) (s : State) : (enterHaveHeader len off s).epoch = s.epoch := rfl

/-! The fields after `bufWrite i v s`. -/
@[simp] theorem bufWrite_extraBits (i : Index) (v : Byte) (s : State) : (bufWrite i v s).extraBits = s.extraBits := rfl
@[simp] theorem bufWrite_st (i : Index) (v : Byte) (s : State) : (bufWrite i v s).st = s.st := rfl
@[simp] theorem bufWrite_hdr (i : Index) (v : Byte) (s : State) : (bufWrite i v s).hdr = s.hdr := rfl
@[simp] theorem bufWrite_hdrCnt (i : Index) (v : Byte) (s : State) : (bufWrite i v s).hdrCnt = s.hdrCnt := rfl
@[simp] theorem bufWrite_pktLen (i : Index) (v : Byte) (s : State) : (bufWrite i v s).pktLen = s.pktLen := rfl
@[simp] theorem bufWrite_whOff (i : Index) (v : Byte) (s : State) : (bufWrite i v s).whOff = s.whOff := rfl
@[simp] theorem bufWrite_pbyte (i : Index) (v : Byte) (s : State) : (bufWrite i v s).pbyte = s.pbyte := rfl
@[simp] theorem bufWrite_bitIdx (i : Index) (v : Byte) (s : State) : (bufWrite i v s).bitIdx = s.bitIdx := rfl
@[simp] theorem bufWrite_byteCnt (i : Index) (v : Byte) (s : State) : (bufWrite i v s).byteCnt = s.byteCnt := rfl
@[simp] theorem bufWrite_buf (i : Index) (v : Byte) (s : State) : (bufWrite i v s).buf = s.buf.store i.toNat v := rfl
@[simp] theorem bufWrite_outValid (i : Index) (v : Byte) (s : State) : (bufWrite i v s).outValid = s.outValid := rfl
@[simp] theorem bufWrite_outLen (i : Index) (v : Byte) (s : State) : (bufWrite i v s).outLen = s.outLen := rfl
@[simp] theorem bufWrite_inputs (i : Index) (v : Byte) (s : State) : (bufWrite i v s).inputs = s.inputs := rfl
@[simp] theorem bufWrite_delivered (i : Index) (v : Byte) (s : State) : (bufWrite i v s).delivered = s.delivered := rfl
@[simp] theorem bufWrite_epoch (i : Index) (v : Byte) (s : State) : (bufWrite i v s).epoch = s.epoch := rfl

/-! The fields after `publish (s, none)`. -/
@[simp] theorem publish_none_extraBits (s : State) : (publish (s, none)).extraBits = s.extraBits := rfl
@[simp] theorem publish_none_st (s : State) : (publish (s, none)).st = s.st := rfl
@[simp] theorem publish_none_hdr (s : State) : (publish (s, none)).hdr = s.hdr := rfl
@[simp] theorem publish_none_hdrCnt (s : State) : (publish (s, none)).hdrCnt = s.hdrCnt := rfl
@[simp] theorem publish_none_pktLen (s : State) : (publish (s, none)).pktLen = s.pktLen := rfl
@[simp] theorem publish_none_whOff (s : State) : (publish (s, none)).whOff = s.whOff := rfl
@[simp] theorem publish_none_pbyte (s : State) : (publish (s, none)).pbyte = s.pbyte := rfl
@[simp] theorem publish_none_bitIdx (s : State) : (publish (s, none)).bitIdx = s.bitIdx := rfl
@[simp] theorem publish_none_byteCnt (s : State) : (publish (s, none)).byteCnt = s.byteCnt := rfl
@[simp] theorem publish_none_buf (s : State) : (publish (s, none)).buf = s.buf := rfl
@[simp] theorem publish_none_outValid (s : State) : (publish (s, none)).outValid = false := rfl
@[simp] theorem publish_none_outLen (s : State) : (publish (s, none)).outLen = s.outLen := rfl
@[simp] theorem publish_none_inputs (s : State) : (publish (s, none)).inputs = s.inputs := rfl
@[simp] theorem publish_none_delivered (s : State) : (publish (s, none)).delivered = s.delivered := rfl
@[simp] theorem publish_none_epoch (s : State) : (publish (s, none)).epoch = s.epoch := rfl

/-! The fields after `publish (s, some p)`. -/
@[simp] theorem publish_some_extraBits (s : State) (p : Packet) : (publish (s, some p)).extraBits = s.extraBits := rfl
@[simp] theorem publish_some_st (s : State) (p : Packet) : (publish (s, some p)).st = s.st := rfl
@[simp] theorem publish_some_hdr (s : State) (p : Packet) : (publish (s, some p)).hdr = s.hdr := rfl
@[simp] theorem publish_some_hdrCnt (s : State) (p : Packet) : (publish (s, some p)).hdrCnt = s.hdrCnt := rfl
@[simp] theorem publish_some_pktLen (s : State) (p : Packet) : (publish (s, some p)).pktLen = s.pktLen := rfl
@[simp] theorem publish_some_whOff (s : State) (p : Packet) : (publish (s, some p)).whOff = s.whOff := rfl
@[simp] theorem publish_some_pbyte (s : State) (p : Packet) : (publish (s, some p)).pbyte = s.pbyte := rfl
@[simp] theorem publish_some_bitIdx (s : State) (p : Packet) : (publish (s, some p)).bitIdx = s.bitIdx := rfl
@[simp] theorem publish_some_byteCnt (s : State) (p : Packet) : (publish (s, some p)).byteCnt = s.byteCnt := rfl
@[simp] theorem publish_some_buf (s : State) (p : Packet) : (publish (s, some p)).buf = s.buf := rfl
@[simp] theorem publish_some_outValid (s : State) (p : Packet) : (publish (s, some p)).outValid = true := rfl
@[simp] theorem publish_some_outLen (s : State) (p : Packet) : (publish (s, some p)).outLen = p.length := rfl
@[simp] theorem publish_some_inputs (s : State) (p : Packet) : (publish (s, some p)).inputs = s.inputs := rfl
@[simp] theorem publish_some_delivered (s : State) (p : Packet) : (publish (s, some p)).delivered = s.delivered ++ [p] := rfl
@[simp] theorem publish_some_epoch (s : State) (p : Packet) : (publish (s, some p)).epoch = s.epoch := rfl

/-! The fields after `resetEdge s`. -/
@[simp] theorem resetEdge_extraBits (s : State) : (resetEdge s).extraBits = s.extraBits := rfl
@[simp] theorem resetEdge_st (s : State) : (resetEdge s).st = .syncSearch := rfl
@[simp] theorem resetEdge_hdr (s : State) : (resetEdge s).hdr = 0 := rfl
@[simp] theorem resetEdge_hdrCnt (s : State) : (resetEdge s).hdrCnt = 0 := rfl
@[simp] theorem resetEdge_pktLen (s : State) : (resetEdge s).pktLen = 0 := rfl
@[simp] theorem resetEdge_whOff (s : State) : (resetEdge s).whOff = 0 := rfl
@[simp] theorem resetEdge_pbyte (s : State) : (resetEdge s).pbyte = 0 := rfl
@[simp] theorem resetEdge_bitIdx (s : State) : (resetEdge s).bitIdx = 0 := rfl
@[simp] theorem resetEdge_byteCnt (s : State) : (resetEdge s).byteCnt = 0 := rfl
@[simp] theorem resetEdge_buf (s : State) : (resetEdge s).buf = [] := rfl
@[simp] theorem resetEdge_outValid (s : State) : (resetEdge s).outValid = false := rfl
@[simp] theorem resetEdge_outLen (s : State) : (resetEdge s).outLen = 0 := rfl
@[simp] theorem resetEdge_inputs (s : State) : (resetEdge s).inputs = s.inputs := rfl
@[simp] theorem resetEdge_delivered (s : State) : (resetEdge s).delivered = s.delivered := rfl
@[simp] theorem resetEdge_epoch (s : State) : (resetEdge s).epoch = s.epoch + 1 := rfl

/-! The fields of the reset state (10_state.md R32). -/
@[simp] theorem reset_extraBits : State.reset.extraBits = 6 := rfl
@[simp] theorem reset_st : State.reset.st = .syncSearch := rfl
@[simp] theorem reset_hdr : State.reset.hdr = 0 := rfl
@[simp] theorem reset_hdrCnt : State.reset.hdrCnt = 0 := rfl
@[simp] theorem reset_pktLen : State.reset.pktLen = 0 := rfl
@[simp] theorem reset_whOff : State.reset.whOff = 0 := rfl
@[simp] theorem reset_pbyte : State.reset.pbyte = 0 := rfl
@[simp] theorem reset_bitIdx : State.reset.bitIdx = 0 := rfl
@[simp] theorem reset_byteCnt : State.reset.byteCnt = 0 := rfl
@[simp] theorem reset_buf : State.reset.buf = [] := rfl
@[simp] theorem reset_outValid : State.reset.outValid = false := rfl
@[simp] theorem reset_outLen : State.reset.outLen = 0 := rfl
@[simp] theorem reset_inputs : State.reset.inputs = [] := rfl
@[simp] theorem reset_delivered : State.reset.delivered = [] := rfl
@[simp] theorem reset_epoch : State.reset.epoch = 0 := rfl

end Sys2Proof.Machine
end

