-- ==== Sys2Proof/Laws/Memory.lean ====
section
/-! SUPPORT. The ranges of the words. The packet buffer: read after write, and every operation keeps the canonical form. -/

namespace Sys2Proof.Machine

/-! The ranges of Config's widths, as numbers. -/

@[simp] theorem two_pow_headerBits : 2 ^ Config.headerBits = 4294967296 := rfl
@[simp] theorem two_pow_lenBits : 2 ^ Config.lenBits = 4096 := rfl
@[simp] theorem two_pow_byteBits : 2 ^ Config.byteBits = 256 := rfl
@[simp] theorem two_pow_hdrCntBits : 2 ^ Config.hdrCntBits = 32 := rfl
@[simp] theorem two_pow_bitIdxBits : 2 ^ Config.bitIdxBits = 8 := rfl
@[simp] theorem two_pow_whOffBits : 2 ^ Config.whOffBits = 16 := rfl

@[simp] theorem Memory.lookup_nil (a : Nat) : Memory.lookup [] a = none := rfl

/-- A store is read back at its own index. -/
@[simp] theorem Memory.lookup_store_self (m : Memory) (a : Nat) (v : Byte) :
    (m.store a v).lookup a = some v := by
  induction m with
  | nil => simp [Memory.store, Memory.lookup]
  | cons c m ih =>
    unfold Memory.store
    split_ifs with h₁ h₂
    · simp [Memory.lookup]
    · simp [Memory.lookup]
    · simpa [Memory.lookup, h₂] using ih

/-- A store leaves every other index alone. -/
theorem Memory.lookup_store_of_ne (m : Memory) {a b : Nat} (v : Byte) (h : b ≠ a) :
    (m.store a v).lookup b = m.lookup b := by
  induction m with
  | nil => simp [Memory.store, Memory.lookup, h.symm]
  | cons c m ih =>
    unfold Memory.store
    split_ifs with h₁ h₂
    · simp [Memory.lookup, h.symm]
    · subst h₂
      simp [Memory.lookup, h.symm]
    · simp only [Memory.lookup, ih]

/-- Every cell after a store is the stored one or was there before. -/
theorem Memory.mem_store {m : Memory} {a : Nat} {v : Byte} {c : Host.Cell} (h : c ∈ m.store a v) :
    c = (a, v) ∨ c ∈ m := by
  induction m with
  | nil => simpa [Memory.store] using h
  | cons c' m ih =>
    unfold Memory.store at h
    split_ifs at h with h₁ h₂
    · simpa using h
    · rcases List.mem_cons.1 h with h | h
      · exact .inl h
      · exact .inr (List.mem_cons_of_mem _ h)
    · rcases List.mem_cons.1 h with h | h
      · exact .inr (h ▸ List.mem_cons_self)
      · exact (ih h).imp id (List.mem_cons_of_mem _)

theorem Memory.nil_wf : Memory.wf [] := ⟨List.Pairwise.nil, by simp⟩

/-- A store below `CAPACITY` keeps the canonical form. -/
theorem Memory.store_wf {m : Memory} {a : Nat} (v : Byte) (h : m.wf) (ha : a < Config.capacity) :
    (m.store a v).wf := by
  refine ⟨?_, fun c hc => (Memory.mem_store hc).elim (fun e => e ▸ ha) (h.2 c)⟩
  have hp := h.1
  clear h
  induction m with
  | nil => simp [Memory.store]
  | cons c m ih =>
    have hc := List.pairwise_cons.1 hp
    unfold Memory.store
    split_ifs with h₁ h₂
    · refine List.pairwise_cons.2 ⟨fun c' hc' => ?_, hp⟩
      rcases List.mem_cons.1 hc' with rfl | hc'
      · exact h₁
      · exact h₁.trans (hc.1 c' hc')
    · exact List.pairwise_cons.2 ⟨fun c' hc' => h₂ ▸ hc.1 c' hc', hc.2⟩
    · refine List.pairwise_cons.2 ⟨fun c' hc' => ?_, ih hc.2⟩
      rcases Memory.mem_store hc' with rfl | hc'
      · exact lt_of_le_of_ne (not_lt.1 h₁) h₂
      · exact hc.1 c' hc'

/-- Every 12-bit index is an index of the buffer (20_memory.md R40, R41). -/
theorem index_lt_capacity (i : Index) : i.toNat < Config.capacity := i.isLt

theorem bufWrite_wf {s : State} (i : Index) (v : Byte) (h : s.buf.wf) : (bufWrite i v s).buf.wf :=
  Memory.store_wf v h (index_lt_capacity i)

theorem enterSearch_wf {s : State} (h : s.buf.wf) : (enterSearch s).buf.wf := h

theorem enterSync_wf {s : State} (d : Bit) (h : s.buf.wf) : (enterSync d s).buf.wf := h

theorem enterHaveHeader_wf {s : State} (len : Index) (off : BitVec Config.whOffBits) (h : s.buf.wf) :
    (enterHaveHeader len off s).buf.wf := h

theorem publish_wf {r : State × Option Packet} (h : r.1.buf.wf) : (publish r).buf.wf := by
  obtain ⟨s, _ | p⟩ := r <;> exact h

theorem resetEdge_wf (s : State) : (resetEdge s).buf.wf := Memory.nil_wf

theorem reset_memory_wf : State.reset.buf.wf := Memory.nil_wf

/-- `BufRead` of a byte that was written gives that byte. -/
theorem bufRead_of_lookup {s : State} {i : Index} {v : Byte} (h : s.buf.lookup i.toNat = some v) :
    bufRead i s = v := by
  simp [bufRead, h]

/-- `BufRead` depends on the buffer and the free value's selector only. -/
theorem bufRead_congr {s t : State} (i : Index) (hb : s.buf = t.buf) (he : s.epoch = t.epoch) :
    bufRead i s = bufRead i t := by
  simp [bufRead, hb, he]

@[simp] theorem bufRead_bufWrite_self (i : Index) (v : Byte) (s : State) : bufRead i (bufWrite i v s) = v :=
  bufRead_of_lookup (by simp)

theorem bufRead_bufWrite_of_ne {i j : Index} (v : Byte) (s : State) (h : j ≠ i) :
    bufRead j (bufWrite i v s) = bufRead j s := by
  have h' : j.toNat ≠ i.toNat := fun e => h (BitVec.eq_of_toNat_eq e)
  simp [bufRead, Memory.lookup_store_of_ne _ _ h']

@[simp] theorem bufPrefix_length (len : Index) (s : State) : (bufPrefix len s).length = len.toNat := by
  simp [bufPrefix]

/-- Byte `j` of an emitted packet is `buf[j]` (30_encoding.md R66). -/
theorem bufPrefix_getElem (len : Index) (s : State) (j : Nat) (h : j < (bufPrefix len s).length) :
    (bufPrefix len s)[j] = bufRead (BitVec.ofNat _ j) s := by
  simp [bufPrefix]

end Sys2Proof.Machine
end

