-- ==== Sys2Proof/Laws/Ops.lean ====
section
/-! SUPPORT. What each shared operation can do, said once: the decode, header completion, the `DATA` dispatch, one
item, one clock edge, one step. -/

namespace Sys2Proof.Machine

/-! The ranges of the counters and lengths, with the widths of Config as numbers. -/

theorem State.hdrCnt_lt (s : State) : s.hdrCnt.toNat < 32 := s.hdrCnt.isLt

theorem State.bitIdx_lt (s : State) : s.bitIdx.toNat < 8 := s.bitIdx.isLt

theorem State.pktLen_lt (s : State) : s.pktLen.toNat < 4096 := s.pktLen.isLt

theorem State.byteCnt_lt (s : State) : s.byteCnt.toNat < 4096 := s.byteCnt.isLt

/-- A header count below 31 does not wrap (41_header.md R100). -/
theorem hdrCnt_succ {s : State} (h : s.hdrCnt.toNat < 31) : (s.hdrCnt + 1).toNat = s.hdrCnt.toNat + 1 := by
  have h' : s.hdrCnt.toNat + 1 < 32 := by omega
  exact (BitVec.toNat_add _ _).trans (Nat.mod_eq_of_lt h')

/-- A bit position below 7 does not wrap (42_payload.md R120). -/
theorem bitIdx_succ {s : State} (h : s.bitIdx.toNat < 7) : (s.bitIdx + 1).toNat = s.bitIdx.toNat + 1 := by
  have h' : s.bitIdx.toNat + 1 < 8 := by omega
  exact (BitVec.toNat_add _ _).trans (Nat.mod_eq_of_lt h')

/-- A byte count below a length does not wrap (42_payload.md R121). -/
theorem byteCnt_succ {s : State} (h : s.byteCnt.toNat < s.pktLen.toNat) :
    (s.byteCnt + 1).toNat = s.byteCnt.toNat + 1 := by
  have h' : s.byteCnt.toNat + 1 < 4096 := by have := s.pktLen_lt; omega
  exact (BitVec.toNat_add _ _).trans (Nat.mod_eq_of_lt h')

/-- The bits of a register after an operand is shifted in. -/
theorem shiftIn_getLsbD {w : Nat} (v : BitVec w) (d : Bit) (i : Nat) :
    (shiftIn v d).getLsbD i = (decide (i < w) && if i = 0 then d.getLsbD 0 else v.getLsbD (i - 1)) := by
  rcases i with _ | i
  · simp [shiftIn]
  · by_cases h : i + 1 < w
    · simp [shiftIn, h, BitVec.getLsbD_eq_getElem (show i < w by omega)]
    · simp [shiftIn, h]

/-- Header operand assembly with the spec's number for the width (30_encoding.md R63). -/
theorem shiftIn_header (v : Header) (d : Bit) : shiftIn v d = (v <<< 1) ||| d.setWidth 32 := rfl

/-- Payload operand assembly with the spec's number for the width (30_encoding.md R63). -/
theorem shiftIn_byte (v : Byte) (d : Bit) : shiftIn v d = (v <<< 1) ||| d.setWidth 8 := rfl

theorem popcount_le {w : Nat} (v : BitVec w) : popcount v ≤ w := by
  simpa [popcount] using List.countP_le_length (p := fun i => v.getLsbD i) (l := List.range w)

/-- The three outcomes of the vote (41_header.md R103). -/
theorem decodeHeader_cases (h : Header) :
    (weight h < 12 ∧ decodeHeader h = some 5) ∨ (12 < weight h ∧ decodeHeader h = some 260) ∨
      (weight h = 12 ∧ decodeHeader h = none) := by
  unfold decodeHeader Config.voteTie Config.sentinelLo Config.sentinelHi
  split_ifs with h₁ h₂
  · exact .inl ⟨h₁, rfl⟩
  · exact .inr (.inl ⟨h₂, rfl⟩)
  · exact .inr (.inr ⟨by omega, rfl⟩)

/-- Header completion under the normative decoder: a tie returns to `SYNC_SEARCH`, any other header enters
`HAVE_HEADER` with a length of 5 or 260, and nothing is ever emitted. -/
theorem hdrDone_cases (d : Bit) (s : State) :
    (weight (shiftIn s.hdr d) = 12 ∧ hdrDone d s = (enterSearch s, none)) ∨
      (weight (shiftIn s.hdr d) < 12 ∧ hdrDone d s = (enterHaveHeader 5 0 s, none)) ∨
      (12 < weight (shiftIn s.hdr d) ∧ hdrDone d s = (enterHaveHeader 260 0 s, none)) := by
  rcases decodeHeader_cases (shiftIn s.hdr d) with ⟨hw, hv⟩ | ⟨hw, hv⟩ | ⟨hw, hv⟩
  · exact .inr (.inl ⟨hw, by rw [hdrDone, hv]; rfl⟩)
  · exact .inr (.inr ⟨hw, by rw [hdrDone, hv]; rfl⟩)
  · exact .inl ⟨hw, by rw [hdrDone, hv]⟩

/-- The dispatch of a `DATA` item (40_frame_sync.md R80, R90). -/
theorem dataItem_cases (d : Bit) (s : State) :
    (s.st = .syncSearch ∧ dataItem d s = (s, none)) ∨
      (s.st = .haveSync ∧ s.hdrCnt.toNat < 31 ∧ dataItem d s = hdrShift d s) ∨
      (s.st = .haveSync ∧ s.hdrCnt.toNat = 31 ∧ dataItem d s = hdrDone d s) ∨
      (s.st = .haveHeader ∧ s.bitIdx.toNat < 7 ∧ dataItem d s = payShift d s) ∨
      (s.st = .haveHeader ∧ s.bitIdx.toNat = 7 ∧ s.byteCnt.toNat + 1 < s.pktLen.toNat ∧
        dataItem d s = payCommit d s) ∨
      (s.st = .haveHeader ∧ s.bitIdx.toNat = 7 ∧ s.pktLen.toNat ≤ s.byteCnt.toNat + 1 ∧
        dataItem d s = payLast d s) := by
  have hc := s.hdrCnt_lt
  have hi := s.bitIdx_lt
  rcases hst : s.st with _ | _ | _
  · exact .inl ⟨rfl, by simp only [dataItem, hst, dataSearch]⟩
  · by_cases h : s.hdrCnt.toNat + 1 < Config.headerBits
    · exact .inr (.inl ⟨rfl, Nat.lt_of_succ_lt_succ h, by simp only [dataItem, hst, if_pos h]⟩)
    · have h31 : ¬ s.hdrCnt.toNat + 1 < 32 := h
      exact .inr (.inr (.inl ⟨rfl, by omega, by simp only [dataItem, hst, if_neg h]⟩))
  · by_cases h : s.bitIdx.toNat + 1 < Config.byteBits
    · exact .inr (.inr (.inr (.inl ⟨rfl, Nat.lt_of_succ_lt_succ h, by simp only [dataItem, hst, if_pos h]⟩)))
    · have h7 : ¬ s.bitIdx.toNat + 1 < 8 := h
      by_cases h' : s.byteCnt.toNat + 1 < s.pktLen.toNat
      · exact .inr (.inr (.inr (.inr (.inl ⟨rfl, by omega, h',
          by simp only [dataItem, hst, if_neg h, if_pos h']⟩))))
      · exact .inr (.inr (.inr (.inr (.inr ⟨rfl, by omega, by omega,
          by simp only [dataItem, hst, if_neg h, if_neg h']⟩))))

/-- An item writes the registers of 10_state.md R20 and the buffer; the pins, the parameter of the instance, the sink's
record and the reset counter stay. -/
theorem stepItem_frame (i : Instr) (s : State) :
    (stepItem i s).1 = { s with
      st := (stepItem i s).1.st, hdr := (stepItem i s).1.hdr, hdrCnt := (stepItem i s).1.hdrCnt,
      pktLen := (stepItem i s).1.pktLen, whOff := (stepItem i s).1.whOff, pbyte := (stepItem i s).1.pbyte,
      bitIdx := (stepItem i s).1.bitIdx, byteCnt := (stepItem i s).1.byteCnt, buf := (stepItem i s).1.buf } := by
  rcases i with d | d
  · rfl
  · simp only [stepItem]
    rcases dataItem_cases d s with ⟨-, h⟩ | ⟨-, -, h⟩ | ⟨-, -, h⟩ | ⟨-, -, h⟩ | ⟨-, -, -, h⟩ | ⟨-, -, -, h⟩ <;> rw [h]
    · rfl
    · rcases hdrDone_cases d s with ⟨-, h'⟩ | ⟨-, h'⟩ | ⟨-, h'⟩ <;> rw [h'] <;> rfl
    · rfl
    · rfl
    · rfl

@[simp] theorem stepItem_extraBits (i : Instr) (s : State) : (stepItem i s).1.extraBits = s.extraBits := by
  rw [stepItem_frame]

@[simp] theorem stepItem_outValid (i : Instr) (s : State) : (stepItem i s).1.outValid = s.outValid := by
  rw [stepItem_frame]

@[simp] theorem stepItem_outLen (i : Instr) (s : State) : (stepItem i s).1.outLen = s.outLen := by
  rw [stepItem_frame]

@[simp] theorem stepItem_delivered (i : Instr) (s : State) : (stepItem i s).1.delivered = s.delivered := by
  rw [stepItem_frame]

@[simp] theorem stepItem_epoch (i : Instr) (s : State) : (stepItem i s).1.epoch = s.epoch := by
  rw [stepItem_frame]

/-- At a clock edge an item's effect is its transaction-level step with the output on the pins. -/
theorem exec_eq (i : Instr) (s : State) : exec i s = .next (publish (stepItem i s)) := by
  cases i <;> rfl

/-- An edge in the supported build is a reset, an item or idle (30_encoding.md R68). -/
theorem clockEdge_cases {n : Nat} (e : Edge n) (s : State) :
    (e.rst = true ∧ clockEdge Config.whitenerEn e s = .next (resetEdge s)) ∨
      (e.rst = false ∧ e.inValid = true ∧
        clockEdge Config.whitenerEn e s = .next (publish (stepItem (decode e.inItem) s))) ∨
      (e.rst = false ∧ e.inValid = false ∧ clockEdge Config.whitenerEn e s = .next (publish (s, none))) := by
  rcases hr : e.rst with _ | _ <;> rcases hv : e.inValid with _ | _ <;>
    simp [clockEdge, hr, hv, exec_eq, WellFormed.whitenerOk, Config.whitenerEn]

theorem nextEdge_nil {s : State} (h : s.inputs = []) : nextEdge s = (Edge.idle, s) := by
  simp [nextEdge, h]

theorem nextEdge_cons {s : State} {e : Edge s.extraBits} {rest : List (Edge s.extraBits)} (h : s.inputs = e :: rest) :
    nextEdge s = (e, { s with inputs := rest }) := by
  simp [nextEdge, h]

/-- A run takes one step and goes on. -/
theorem run_succ {s t : State} (k : Nat) (h : step s = .next t) :
    Sys2Proof.core.run (k + 1) s = Sys2Proof.core.run k t := by
  have h' : Sys2Proof.core.step s = .next t := h
  simp only [Host.Core.run, h']

/-- No steps leave the state as it is. -/
theorem run_zero (s : State) : Sys2Proof.core.run 0 s = .next s := rfl

end Sys2Proof.Machine
end

