-- ==== Sys2Proof/Laws/PerInstr.lean ====
section
/-! SUPPORT. The per-instruction family `LegalItem`: the item is well-formed and its item code names it. -/

namespace Sys2Proof.Laws.LegalItem

/-- 30_encoding.md R61, R62: the item is one of the four legal ones, and its two-bit code reads back as it. -/
def Statement (i : Instr) : Prop := i.wf = true ∧ Instr.ofItemCode i.itemCode = i

theorem sync (d : Bit) : Statement (.sync d) := by
  unfold Statement
  revert d
  decide

theorem data (d : Bit) : Statement (.data d) := by
  unfold Statement
  revert d
  decide

end Sys2Proof.Laws.LegalItem
end

