-- ==== Sys2Proof/Tests/Slice0.lean ====
section
/-! SUPPORT. The model's own tests: expected values from the spec's encodings (30_encoding.md) and vectors
(95_test_vectors.md), and one witness for the hypotheses of each statement. -/

namespace Sys2Proof.Machine.Tests

/-! ## Well-formedness: one ill-formed term per check -/

theorem test_wf_four_items : Instr.legal.all Instr.wf = true := by decide
theorem test_wf_one_bit_port_refused : WellFormed.itemWOk 1 = false := by decide
theorem test_wf_two_bit_port : WellFormed.itemWOk 2 = true := by decide
theorem test_wf_whitener_refused : WellFormed.whitenerOk true = false := by decide

/-- The widths of Config hold the counts they are for: a header of `headerBits`, a byte, a buffer index, a voted bit. -/
theorem test_widths_hold_their_counts :
    Config.headerBits ≤ 2 ^ Config.hdrCntBits ∧ Config.byteBits ≤ 2 ^ Config.bitIdxBits ∧
    Config.capacity = 2 ^ Config.lenBits ∧ Config.voteRanges.all (fun r => r.1 < Config.headerBits) = true := by decide

/-! ## Decoding: words written out from the table of 30_encoding.md R62 -/

theorem test_decode_sync : decodeTableWord 8 0b00000010 = some (.sync 0) ∧ decodeTableWord 8 0b00000011 = some (.sync 1) := by
  decide
theorem test_decode_data : decodeTableWord 8 0b00000000 = some (.data 0) ∧ decodeTableWord 8 0b00000001 = some (.data 1) := by
  decide
/-- 95_test_vectors.md 2.1: with `ITEM_W = 8`, `0xFE` is `S0`. -/
theorem test_decode_ignores_upper_bits : decodeTableWord 8 0xFE = some (.sync 0) := by decide
theorem test_decode_short_word : decodeTableWord 1 1 = some (.data 1) := by decide
theorem test_decode_one_bit_port_refused : decodePort 1 1#1 = .error .unitTooNarrow := by decide
theorem test_encode_sync : encode 0b101101#6 (.sync 1) = 0b10110111#8 := by decide
/-- 95_test_vectors.md P4: the item codes of `HDR(0x0FFF0FFF)`, here its first eight. -/
theorem test_header_item_codes :
    ((hdrItems 0x0FFF0FFF).take 8).map (fun i => i.itemCode.toNat) = [2, 0, 0, 0, 1, 1, 1, 1] := by decide
theorem test_byte_item_codes : (byteItems 0x48).map (fun i => i.itemCode.toNat) = [0, 1, 0, 0, 1, 0, 0, 0] := by decide

/-! ## One step -/

/-- A state in `HAVE_SYNC`. -/
def inSync (hdr : BitVec 32) (cnt : BitVec 5) : State := { State.reset with st := .haveSync, hdr := hdr, hdrCnt := cnt }

/-- A state in `HAVE_HEADER`. -/
def inHeader (len byteCnt : Index) (pbyte : Byte) (bitIdx : BitVec 3) (buf : Memory) : State :=
  { State.reset with st := .haveHeader, pktLen := len, byteCnt := byteCnt, pbyte := pbyte, bitIdx := bitIdx, buf := buf }

/-- The bytes `48 65 6C 6C` at indices 0 to 3. -/
def hell : Memory := [(0, 0x48), (1, 0x65), (2, 0x6C), (3, 0x6C)]

/-- The result of one item. -/
def after (i : Instr) (s : State) : State := publish (stepItem i s)

/-- V-S2, V-S4, V-S5 of 95_test_vectors.md 2.1: from reset, on the 32nd header bit, on the last payload bit. -/
theorem test_sync_restarts_everywhere :
    after (.sync 1) State.reset = inSync 1 1 ∧ after (.sync 1) (inSync 0 31) = inSync 1 1 ∧
    after (.sync 1) (inHeader 5 4 0x37 7 hell) = { inSync 1 1 with buf := hell } := by decide

/-- The word 3 is `S1`: the step after reset runs it (V-S2). -/
theorem test_first_step_runs_the_sync_word :
    step (State.reset.withFetchWord 8 3) = .next (after (.sync 1) State.reset) := rfl

/-- V-H1, V-H2, V-P1, V-P4 of 95_test_vectors.md: header shift, payload shift, byte commit. -/
theorem test_data_shifts_and_commits :
    after (.data 0) (inSync 1 1) = inSync 2 2 ∧ after (.data 1) (inSync 0x2AAAAAAA 30) = inSync 0x55555555 31 ∧
    after (.data 1) (inHeader 5 0 1 1 []) = inHeader 5 0 3 2 [] ∧
    after (.data 0) (inHeader 5 0 0x24 7 []) = inHeader 5 1 0 0 [(0, 0x48)] := by decide

/-- V-P5 of 95_test_vectors.md 2.3: the last payload bit emits the packet. -/
theorem test_data_last_bit_emits :
    (after (.data 1) (inHeader 5 4 0x37 7 hell)).delivered = [⟨[0x48, 0x65, 0x6C, 0x6C, 0x6F], 5⟩] ∧
    (after (.data 1) (inHeader 5 4 0x37 7 hell)).outLen = 5 ∧
    (after (.data 1) (inHeader 5 4 0x37 7 hell)).rdData 4 = 0x6F := by decide

/-- V-H3 to V-H18 of 95_test_vectors.md 2.2: headers and what they decode to. -/
theorem test_decode_header_vectors :
    [0x00000000, 0x00050005, 0xF000F000, 0x001F003F, 0x01040104, 0x00000FFE, 0x80008000].map decodeHeader =
      List.replicate 7 (some 5) ∧
    [0x0FFF0FFF, 0xFFFFFFFF, 0x007F003F, 0xFFF0FFF0].map decodeHeader = List.replicate 4 (some 260) ∧
    [0x00000FFF, 0x0FFF0000, 0x003F003F, 0x0AAA0555, 0x00001FFF].map decodeHeader = List.replicate 5 none := by decide

/-! ## Witnesses: for each statement with hypotheses, a state and operands that meet all of them -/

/-- `S1` in an eight-bit unit whose ignored bits are set. -/
def unitS1 : TransportUnit 6 := 0xFF

/-- The reset state of the eight-bit instance with these edges to come. -/
def withEdges (edges : List (Edge 6)) : State := { State.resetOf 6 with inputs := edges }

theorem witness_DecodeAndEncodeAgree : (Instr.sync 1).wf = true := by decide
theorem witness_IgnoredBitsHaveNoEffect :
    2 ≤ 2 ∧ (3 : TransportUnit 0).getLsbD 0 = unitS1.getLsbD 0 ∧ (3 : TransportUnit 0).getLsbD 1 = unitS1.getLsbD 1 ∧
    (3 : TransportUnit State.reset.extraBits).getLsbD 0 = unitS1.getLsbD 0 ∧
    (3 : TransportUnit State.reset.extraBits).getLsbD 1 = unitS1.getLsbD 1 := by decide
theorem witness_StepRunsTheDecodedItem :
    (withEdges [⟨false, true, unitS1⟩]).inputs = [⟨false, true, unitS1⟩] ∧ decode unitS1 = .sync 1 := by decide
theorem witness_PinLevelAgreesWithTransactions :
    ∀ e ∈ ([Edge.idle, ⟨false, true, unitS1⟩] : List (Edge State.reset.extraBits)), e.rst = false := by decide
theorem witness_SearchIgnoresDataItems : State.reset.st = .syncSearch := rfl
theorem witness_NoSyncItemNoPacket :
    State.reset.st = .syncSearch ∧ ∀ i ∈ [Instr.data 1, Instr.data 0], ∃ d, i = .data d :=
  ⟨rfl, by simp⟩

/-- An item that leads into each control state, and for `SYNC_SEARCH` one for each of its three rows. -/
theorem witness_ControlStateEntries :
    exec (.sync 1) State.reset = .next (inSync 1 1) ∧ (inSync 1 1).st = .haveSync ∧
    exec (.data 0) (inSync 0 31) = .next (after (.data 0) (inSync 0 31)) ∧
    (after (.data 0) (inSync 0 31)).st = .haveHeader ∧
    exec (.data 0) State.reset = .next State.reset ∧ State.reset.st = .syncSearch ∧
    exec (.data 1) (inSync 0x7FF 31) = .next (after (.data 1) (inSync 0x7FF 31)) ∧
    (after (.data 1) (inSync 0x7FF 31)).st = .syncSearch ∧
    exec (.data 1) (inHeader 5 4 0x37 7 hell) = .next (after (.data 1) (inHeader 5 4 0x37 7 hell)) ∧
    (after (.data 1) (inHeader 5 4 0x37 7 hell)).st = .syncSearch ∧ RegistersOk (inHeader 5 4 0x37 7 hell) :=
  ⟨rfl, rfl, rfl, by decide, rfl, rfl, rfl, by decide, rfl, by decide, by simp [inHeader, RegistersOk, DecodedLength]⟩

/-- `hdr_cnt` at both ends of its range, 1 and 30. -/
theorem witness_HeaderShiftTakesTheDataBit :
    ((inSync 1 1).st = .haveSync ∧ (inSync 1 1).hdrCnt.toNat < 31 ∧ RegistersOk (inSync 1 1)) ∧
    ((inSync 0x2AAAAAAA 30).st = .haveSync ∧ (inSync 0x2AAAAAAA 30).hdrCnt.toNat < 31 ∧
      RegistersOk (inSync 0x2AAAAAAA 30)) := by
  simp [inSync, RegistersOk, PayloadIdle]

theorem witness_VoteWeightCountsTheVotedBits :
    ∀ i < 12, (0xF000F123 : Header).getLsbD i = (0x00000123 : Header).getLsbD i ∧
      (0xF000F123 : Header).getLsbD (16 + i) = (0x00000123 : Header).getLsbD (16 + i) := by decide

/-- Weights 11, 12 and 13 (95_test_vectors.md L1-8), one for each clause. -/
theorem witness_DecodeHeaderThresholds :
    weight 0x00000FFE < 12 ∧ 12 < weight 0x007F003F ∧ weight 0x00001FFF = 12 ∧
    weight (((inSync 0x7FF 31).hdr <<< 1) ||| (1 : Bit).setWidth 32) = 12 := by decide
theorem witness_HeaderPayloadIsTheLowTwelveBits :
    decodeHeader 0 = some 5 ∧ decodeHeader 0xFFFFFFFF = some 260 := by decide

/-- Weights 12, 11 and 13 at the 32nd bit, one for each clause. -/
theorem witness_HeaderCompletionFollowsTheVote :
    (inSync 0 31).st = .haveSync ∧ (inSync 0 31).hdrCnt = 31 ∧
    weight (((inSync 0x7FF 31).hdr <<< 1) ||| (1 : Bit).setWidth 32) = 12 ∧
    weight (((inSync 0x7FF 31).hdr <<< 1) ||| (0 : Bit).setWidth 32) < 12 ∧
    12 < weight (((inSync 0x87FF 31).hdr <<< 1) ||| (1 : Bit).setWidth 32) := by decide

/-- Over capacity by one, length zero, and lengths at both ends of the accepted range. -/
theorem witness_DeclaredLengthIsCheckedInOrder :
    5 < (6 : Index).toNat ∧ (0 : Index) = 0 ∧ (1 : Index).toNat ≤ 4096 ∧ (1 : Index) ≠ 0 ∧
    (5 : Index).toNat ≤ 5 ∧ (5 : Index) ≠ 0 ∧ decodeHeader 0 = some 5 := by decide
theorem witness_ReservedHeaderBitsAffectNothing :
    (inSync 0x78007800 31).st = .haveSync ∧ (inSync 0x78007800 31).hdrCnt = 31 ∧
    ∀ i < 12,
      (((inSync 0x78007800 31).hdr <<< 1) ||| (1 : Bit).setWidth 32).getLsbD i =
        (((0 : BitVec 32) <<< 1) ||| (1 : Bit).setWidth 32).getLsbD i ∧
      (((inSync 0x78007800 31).hdr <<< 1) ||| (1 : Bit).setWidth 32).getLsbD (16 + i) =
        (((0 : BitVec 32) <<< 1) ||| (1 : Bit).setWidth 32).getLsbD (16 + i) := by decide

/-- Length fields with 5, 7 and 6 set bits, one for each clause. -/
theorem witness_RepetitionHeaderVote :
    (List.range 12).countP (fun i => (0x01F : BitVec 12).getLsbD i) < 6 ∧
    6 < (List.range 12).countP (fun i => (0x07F : BitVec 12).getLsbD i) ∧
    (List.range 12).countP (fun i => (0x03F : BitVec 12).getLsbD i) = 6 := by decide
theorem witness_TiedHeaderPayloadIsIgnored : weight 0x0AAA0555 = 12 := by decide
theorem witness_WhitenerOffsetStaysZero :
    State.reset.whOff = 0 ∧ step State.reset = .next State.reset := ⟨rfl, rfl⟩

/-- `bit_idx` at both ends of its range, 0 and 6. -/
theorem witness_PayloadShiftTakesTheDataBit :
    ((inHeader 5 0 0 0 []).st = .haveHeader ∧ (inHeader 5 0 0 0 []).bitIdx.toNat < 7 ∧
      RegistersOk (inHeader 5 0 0 0 []) ∧ (inHeader 5 0 0 0 []).bitIdx = 0) ∧
    ((inHeader 5 0 0x3F 6 []).st = .haveHeader ∧ (inHeader 5 0 0x3F 6 []).bitIdx.toNat < 7 ∧
      RegistersOk (inHeader 5 0 0x3F 6 [])) := by
  simp [inHeader, RegistersOk, DecodedLength]

/-- The first byte and the last but one. -/
theorem witness_ByteCommitWritesOneByte :
    ((inHeader 5 0 0x24 7 []).st = .haveHeader ∧ (inHeader 5 0 0x24 7 []).bitIdx = 7 ∧
      (inHeader 5 0 0x24 7 []).byteCnt.toNat + 1 < (inHeader 5 0 0x24 7 []).pktLen.toNat) ∧
    (inHeader 5 3 0x24 7 hell).byteCnt.toNat + 1 < (inHeader 5 3 0x24 7 hell).pktLen.toNat := by decide
theorem witness_LastPayloadBitEmitsThePacket :
    (inHeader 5 4 0x37 7 hell).st = .haveHeader ∧ (inHeader 5 4 0x37 7 hell).bitIdx = 7 ∧
    (inHeader 5 4 0x37 7 hell).byteCnt.toNat + 1 = (inHeader 5 4 0x37 7 hell).pktLen.toNat := by decide
theorem witness_EightDataBitsFormOneByte :
    (inHeader 5 3 0 0 hell).st = .haveHeader ∧ (inHeader 5 3 0 0 hell).bitIdx = 0 ∧
    (inHeader 5 3 0 0 hell).byteCnt.toNat + 1 < (inHeader 5 3 0 0 hell).pktLen.toNat := by decide
theorem witness_RoundTripDeliversThePayload :
    weight 0x00050005 ≠ 12 ∧
    [0x48#8, 0x65, 0x6C, 0x6C, 0x6F].length = (if weight 0x00050005 < 12 then 5 else 260) := by decide
theorem witness_RoundTripDeliversThePayload_long :
    weight 0x0FFF0FFF ≠ 12 ∧
    (List.replicate 260 0xAA#8).length = (if weight 0x0FFF0FFF < 12 then 5 else 260) := by
  rw [List.length_replicate]
  decide
theorem witness_ResyncInTheHeaderRestartsIt :
    1 ≤ 31 ∧ 31 ≤ 31 ∧ weight 0x00050005 ≠ 12 ∧
    [0xDE#8, 0xAD, 0xBE, 0xEF, 0x01].length = (if weight 0x00050005 < 12 then 5 else 260) := by decide

/-- The sync item in place of the packet's last bit: 39 of 40 payload bits. -/
theorem witness_ResyncInThePayloadAbandonsThePacket :
    weight 0 ≠ 12 ∧ (List.replicate 39 (1 : Bit)).length < 8 * (if weight 0 < 12 then 5 else 260) ∧
    weight 0x00050005 ≠ 12 ∧
    [0xDE#8, 0xAD, 0xBE, 0xEF, 0x01].length = (if weight 0x00050005 < 12 then 5 else 260) := by decide
theorem witness_OnlyTheLastPayloadBitEmits :
    exec (.data 1) (inHeader 5 4 0x37 7 hell) = .next (after (.data 1) (inHeader 5 4 0x37 7 hell)) ∧
    (after (.data 1) (inHeader 5 4 0x37 7 hell)).delivered ≠ (inHeader 5 4 0x37 7 hell).delivered ∧
    RegistersOk (inHeader 5 4 0x37 7 hell) :=
  ⟨rfl, by decide, by simp [inHeader, RegistersOk, DecodedLength]⟩

/-- A state in the middle of a packet meets the invariant. -/
theorem inv_inHeader : Inv (inHeader 5 4 0x37 7 hell) := by
  refine ⟨by simp [inHeader, RegistersOk, DecodedLength], ?_, by decide, by simp [inHeader], by simp [StrobeOk, inHeader]⟩
  intro j hj
  have h4 : j < 4 := hj
  interval_cases j <;> rfl

/-- An idle step in the middle of a packet, and the last bit of the longest packet. -/
theorem witness_PayloadStaysInBounds :
    (Inv (inHeader 5 4 0x37 7 hell) ∧ step (inHeader 5 4 0x37 7 hell) = .next (inHeader 5 4 0x37 7 hell) ∧
      (inHeader 5 4 0x37 7 hell).st = .haveHeader) ∧
    RegistersOk (inHeader 260 259 0x7F 7 []) ∧ (inHeader 260 259 0x7F 7 []).st = .haveHeader :=
  ⟨⟨inv_inHeader, rfl, rfl⟩, by simp [inHeader, RegistersOk, DecodedLength], rfl⟩

/-- An edge that delivers, an idle edge and a reset edge. -/
theorem witness_StrobeFollowsTheEmission :
    (∃ t, step { inHeader 5 4 0x37 7 hell with inputs := [⟨false, true, 1⟩] } = .next t ∧ t.outValid = true) ∧
    (∃ t, step State.reset = .next t ∧ t.outValid = false) ∧
    (nextEdge (withEdges [⟨true, true, unitS1⟩])).1.rst = true :=
  ⟨⟨_, rfl, rfl⟩, ⟨_, rfl, rfl⟩, rfl⟩

/-- An emitting item followed by 71 items, and 71 items from `SYNC_SEARCH`. -/
theorem witness_EmissionsAreSeventyTwoItemsApart :
    (stepItem (.data 1) (inHeader 5 4 0x37 7 hell)).2 ≠ none ∧ State.reset.st = .syncSearch ∧
    (List.replicate 71 (Instr.data 1)).length < 72 := by decide

/-- The last item of the window of index 0. -/
theorem witness_BufferReadWindow :
    State.reset.st = .syncSearch ∧
    (∀ e ∈ (List.replicate 39 ⟨false, true, unitS1⟩ : List (Edge State.reset.extraBits)), e.rst = false) ∧
    (suppliedItems (List.replicate 39 (⟨false, true, unitS1⟩ : Edge 6))).length < 40 + 8 * (0 : Index).toNat := by
  decide
theorem witness_ItemWidthIsFixed : step State.reset = .next State.reset := rfl
theorem witness_IdleEdgeOnlyClearsTheStrobe :
    (withEdges [⟨false, false, unitS1⟩]).inputs = [⟨false, false, unitS1⟩] ∧ State.reset.inputs = [] := ⟨rfl, rfl⟩
theorem witness_ResetEdgeWinsOverTheItem :
    (withEdges [⟨true, true, unitS1⟩]).inputs = [⟨true, true, unitS1⟩] := rfl
theorem witness_StepKeepsTheInvariant :
    Inv (inHeader 5 4 0x37 7 hell) ∧ step (inHeader 5 4 0x37 7 hell) = .next (inHeader 5 4 0x37 7 hell) :=
  ⟨inv_inHeader, rfl⟩
theorem witness_StaleBufferIsNeverDelivered :
    Canonical State.reset ∧ Canonical { State.resetOf 0 with buf := hell, epoch := 7 } :=
  ⟨⟨rfl, rfl, rfl, rfl, rfl, rfl, rfl, rfl⟩, ⟨rfl, rfl, rfl, rfl, rfl, rfl, rfl, rfl⟩⟩

end Sys2Proof.Machine.Tests
end

