-- ==== Sys2Proof/Proofs/Scope.lean ====
section
/-! PROOFS. The statements about 00_scope.md: the batch as a fold (R16), the pin level against the transaction level
(R67, R68), the width parameter (R12) and the refused build (R11). -/

namespace Sys2Proof.Machine

/-! ## The batch -/

@[simp] theorem process_nil (s : State) : process [] s = (s, []) := rfl

theorem process_cons (i : Instr) (items : List Instr) (s : State) :
    process (i :: items) s =
      ((process items (stepItem i s).1).1, (stepItem i s).2.toList ++ (process items (stepItem i s).1).2) := rfl

theorem process_singleton (i : Instr) (s : State) :
    process [i] s = ((stepItem i s).1, (stepItem i s).2.toList) := by
  simp [process_cons]

theorem process_append (a b : List Instr) (s : State) :
    process (a ++ b) s =
      ((process b (process a s).1).1, (process a s).2 ++ (process b (process a s).1).2) := by
  induction a generalizing s with
  | nil => rfl
  | cons i items ih => simp [process_cons, ih]

/-- Settles O6: joined batches by induction on the first one, the other two clauses by the equations of `process`. -/
theorem batchIsTheFoldOfTheStep : Obligations.BatchIsTheFoldOfTheStep :=
  ⟨process_nil, process_singleton, process_append⟩

/-! ## The width parameter and the edges to come -/

@[simp] theorem publish_extraBits (r : State × Option Packet) : (publish r).extraBits = r.1.extraBits := by
  obtain ⟨s, _ | p⟩ := r <;> rfl

@[simp] theorem nextEdge_extraBits (s : State) : (nextEdge s).2.extraBits = s.extraBits := by
  rcases hi : s.inputs with _ | ⟨e, rest⟩
  · rw [nextEdge_nil hi]
  · rw [nextEdge_cons hi]

/-- What a step can do: it takes the next edge, which is a reset, an item or idle (30_encoding.md R68). -/
theorem step_cases {s t : State} (h : step s = .next t) :
    ((nextEdge s).1.rst = true ∧ t = resetEdge (nextEdge s).2) ∨
      ((nextEdge s).1.rst = false ∧ (nextEdge s).1.inValid = true ∧
        t = publish (stepItem (decode (nextEdge s).1.inItem) (nextEdge s).2)) ∨
      ((nextEdge s).1.rst = false ∧ (nextEdge s).1.inValid = false ∧ t = publish ((nextEdge s).2, none)) := by
  rw [step] at h
  rcases clockEdge_cases (nextEdge s).1 (nextEdge s).2 with ⟨hr, he⟩ | ⟨hr, hv, he⟩ | ⟨hr, hv, he⟩ <;>
    obtain rfl := Host.Outcome.next.inj (he.symm.trans h)
  · exact .inl ⟨hr, rfl⟩
  · exact .inr (.inl ⟨hr, hv, rfl⟩)
  · exact .inr (.inr ⟨hr, hv, rfl⟩)

theorem step_extraBits {s t : State} (h : step s = .next t) : t.extraBits = s.extraBits := by
  rcases step_cases h with ⟨-, rfl⟩ | ⟨-, -, rfl⟩ | ⟨-, -, rfl⟩ <;> simp

/-- Settles O43: a reset, an item and an idle edge all keep the parameter, and `ITEM_W` is it plus 2. -/
theorem itemWidthIsFixed : Obligations.ItemWidthIsFixed := by
  intro s t h
  exact ⟨congrArg (· + Config.minItemW) (step_extraBits h), Nat.le_add_left _ _⟩

/-- Settles O23: the flag and the offset by their definitions, the refusal by the first test of `clockEdge`. -/
theorem whitenerBuildIsRefused : Obligations.WhitenerBuildIsRefused :=
  ⟨rfl, fun _ => rfl, fun _ _ _ => if_pos rfl⟩

/-- The edges to come together with the width parameter their type depends on, so that the input lists of two states
can be compared. -/
def State.pending (s : State) : Σ n, List (Edge n) := ⟨s.extraBits, s.inputs⟩

theorem inputs_eq_nil_of_pending {s : State} {n : Nat} (h : s.pending = ⟨n, []⟩) : s.inputs = [] := by
  obtain ⟨rfl, hi⟩ := Sigma.mk.inj h
  exact eq_of_heq hi

@[simp] theorem stepItem_pending (i : Instr) (s : State) : (stepItem i s).1.pending = s.pending := by
  rw [stepItem_frame]; rfl

@[simp] theorem publish_pending (r : State × Option Packet) : (publish r).pending = r.1.pending := by
  obtain ⟨s, _ | p⟩ := r <;> rfl

/-! ## The transaction-level view of a state -/

/-- The state as the transaction level sees it (00_scope.md R16): the input list, the output registers and the sink's
record, which belong to the pin level, are cleared. -/
def State.transactionView (s : State) : State :=
  { s with inputs := [], delivered := [], outValid := false, outLen := 0 }

/-- A state with no edge to come is its view with the output registers and the sink's record put back. -/
theorem eq_transactionView_with_outputs {s : State} (h : s.inputs = []) :
    s = { s.transactionView with delivered := s.delivered, outValid := s.outValid, outLen := s.outLen } :=
  congrArg (fun edges => { s with inputs := edges }) h

@[simp] theorem publish_transactionView (r : State × Option Packet) :
    (publish r).transactionView = r.1.transactionView := by
  obtain ⟨s, _ | p⟩ := r <;> rfl

theorem acceptHeader_transactionView (capacity : Nat) (lenOff : Index × BitVec Config.whOffBits) (s : State) :
    acceptHeader capacity lenOff s.transactionView =
      ((acceptHeader capacity lenOff s).1.transactionView, (acceptHeader capacity lenOff s).2) := by
  unfold acceptHeader
  split
  · rfl
  · split <;> rfl

theorem hdrDone_transactionView (d : Bit) (s : State) :
    hdrDone d s.transactionView = ((hdrDone d s).1.transactionView, (hdrDone d s).2) := by
  have hhdr : s.transactionView.hdr = s.hdr := rfl
  simp only [hdrDone, hhdr]
  cases decodeHeader (shiftIn s.hdr d) with
  | none => rfl
  | some v => exact acceptHeader_transactionView _ _ s

theorem dataItem_transactionView (d : Bit) (s : State) :
    dataItem d s.transactionView = ((dataItem d s).1.transactionView, (dataItem d s).2) := by
  have hst : s.transactionView.st = s.st := rfl
  have hcnt : s.transactionView.hdrCnt = s.hdrCnt := rfl
  have hidx : s.transactionView.bitIdx = s.bitIdx := rfl
  have hbyte : s.transactionView.byteCnt = s.byteCnt := rfl
  have hlen : s.transactionView.pktLen = s.pktLen := rfl
  simp only [dataItem, hst, hcnt, hidx, hbyte, hlen]
  cases s.st with
  | syncSearch => rfl
  | haveSync =>
    dsimp only
    split
    · rfl
    · exact hdrDone_transactionView d s
  | haveHeader =>
    dsimp only
    split
    · rfl
    · split <;> rfl

/-- An item's step neither reads nor writes what belongs to the pin level. -/
theorem stepItem_transactionView (i : Instr) (s : State) :
    stepItem i s.transactionView = ((stepItem i s).1.transactionView, (stepItem i s).2) := by
  cases i with
  | sync d => rfl
  | data d => exact dataItem_transactionView d s

theorem process_transactionView (items : List Instr) (s : State) :
    process items s.transactionView = ((process items s).1.transactionView, (process items s).2) := by
  induction items generalizing s with
  | nil => rfl
  | cons i items ih => simp only [process_cons, stepItem_transactionView, ih]

/-- States that the transaction level cannot tell apart give the same batch. -/
theorem process_congr {s s' : State} (h : s.transactionView = s'.transactionView) (items : List Instr) :
    (process items s).1.transactionView = (process items s').1.transactionView ∧
      (process items s).2 = (process items s').2 := by
  have heq := congrArg (process items) h
  rw [process_transactionView, process_transactionView] at heq
  exact Prod.mk.inj heq

/-! ## The pin level against the transaction level -/

/-- The pin level has gone from `s` to `t` while the transaction level gave `r`, a state and its packets: the registers
of `t` are those of `r`, the sink has received the packets, and `out_len` is the last one's length. -/
structure DeliversBatch (s t : State) (r : State × List Packet) : Prop where
  registers : t.transactionView = r.1.transactionView
  delivered : t.delivered = s.delivered ++ r.2
  outLen : t.outLen = (r.2.getLast?.map Packet.length).getD s.outLen

theorem DeliversBatch.refl (s : State) : DeliversBatch s s (s, []) := ⟨rfl, by simp, rfl⟩

/-- The output of one step on the pins is its packets as a batch. -/
theorem deliversBatch_publish (r : State × Option Packet) : DeliversBatch r.1 (publish r) (r.1, r.2.toList) := by
  obtain ⟨s, _ | p⟩ := r
  · exact ⟨rfl, by simp, rfl⟩
  · exact ⟨rfl, rfl, rfl⟩

/-- The starting state counts by its sink's record and its output length only. -/
theorem DeliversBatch.congr_start {s s' t : State} {r : State × List Packet} (h : DeliversBatch s t r)
    (hd : s'.delivered = s.delivered) (hl : s'.outLen = s.outLen) : DeliversBatch s' t r :=
  ⟨h.registers, hd ▸ h.delivered, hl ▸ h.outLen⟩

/-- The result counts by its packets and its transaction-level view only. -/
theorem DeliversBatch.congr_result {s t : State} {r r' : State × List Packet} (h : DeliversBatch s t r)
    (hv : r.1.transactionView = r'.1.transactionView) (hp : r.2 = r'.2) : DeliversBatch s t r' :=
  ⟨h.registers.trans hv, hp ▸ h.delivered, hp ▸ h.outLen⟩

/-- One batch after another is the joined batch. -/
theorem DeliversBatch.append {s t u : State} {a b : List Instr} (hst : DeliversBatch s t (process a s))
    (htu : DeliversBatch t u (process b t)) : DeliversBatch s u (process (a ++ b) s) := by
  obtain ⟨hview, hpackets⟩ := process_congr hst.registers b
  obtain ⟨hregs, hdel, hlen⟩ := htu.congr_result hview hpackets
  rw [process_append]
  refine ⟨hregs, by simp [hdel, hst.delivered], ?_⟩
  rw [hlen, hst.outLen, List.getLast?_append]
  cases (process b (process a s).1).2.getLast? <;> rfl

theorem suppliedItems_cons {n : Nat} (e : Edge n) (rest : List (Edge n)) :
    suppliedItems (e :: rest) = suppliedItems [e] ++ suppliedItems rest :=
  List.filterMap_append (l := [e]) (l' := rest)

/-- A step whose next edge is `e` applies that edge to the state with it taken off. -/
theorem step_of_pending {s : State} {n : Nat} {e : Edge n} {rest : List (Edge n)}
    (h : s.pending = ⟨n, e :: rest⟩) :
    ∃ taken : State, step s = clockEdge Config.whitenerEn e taken ∧ taken.pending = ⟨n, rest⟩ ∧
      taken.delivered = s.delivered ∧ taken.outLen = s.outLen ∧ taken.transactionView = s.transactionView := by
  obtain ⟨rfl, hi⟩ := Sigma.mk.inj h
  exact ⟨{ s with inputs := rest }, by rw [step, nextEdge_cons (eq_of_heq hi)], rfl, rfl, rfl, rfl⟩

/-- An edge without reset is taken off the input and delivers the batch of the item it supplies, if any. -/
theorem step_deliversBatch {s : State} {n : Nat} {e : Edge n} {rest : List (Edge n)}
    (hp : s.pending = ⟨n, e :: rest⟩) (hr : e.rst = false) :
    ∃ t, step s = .next t ∧ t.pending = ⟨n, rest⟩ ∧ DeliversBatch s t (process (suppliedItems [e]) s) := by
  obtain ⟨taken, hstep, hpending, hdel, hlen, hview⟩ := step_of_pending hp
  obtain ⟨hregs, hpackets⟩ := process_congr hview (suppliedItems [e])
  suffices h : ∃ t, step s = .next t ∧ t.pending = taken.pending ∧
      DeliversBatch taken t (process (suppliedItems [e]) taken) by
    obtain ⟨t, hst, htp, hbatch⟩ := h
    exact ⟨t, hst, htp.trans hpending, (hbatch.congr_start hdel.symm hlen.symm).congr_result hregs hpackets⟩
  rcases clockEdge_cases e taken with ⟨hr', -⟩ | ⟨-, hv, he⟩ | ⟨-, hv, he⟩
  · exact absurd hr' (by simp [hr])
  · have hs : suppliedItems [e] = [decode e.inItem] := by simp [suppliedItems, hv]
    rw [hs, process_singleton]
    exact ⟨_, hstep.trans he, by simp,
      (deliversBatch_publish _).congr_start (stepItem_delivered _ _).symm (stepItem_outLen _ _).symm⟩
  · have hs : suppliedItems [e] = [] := by simp [suppliedItems, hv]
    rw [hs]
    exact ⟨_, hstep.trans he, rfl, deliversBatch_publish (taken, none)⟩

/-- Running the machine over edges without reset consumes them all and delivers the batch of the supplied items. -/
theorem run_deliversBatch {n : Nat} (edges : List (Edge n)) (s : State) (hp : s.pending = ⟨n, edges⟩)
    (hr : ∀ e ∈ edges, e.rst = false) :
    ∃ t, Sys2Proof.core.run edges.length s = .next t ∧ t.pending = ⟨n, []⟩ ∧
      DeliversBatch s t (process (suppliedItems edges) s) := by
  induction edges generalizing s with
  | nil => exact ⟨s, run_zero s, hp, .refl s⟩
  | cons e rest ih =>
    obtain ⟨he, hrest⟩ := List.forall_mem_cons.1 hr
    obtain ⟨t, hst, htp, hfirst⟩ := step_deliversBatch hp he
    obtain ⟨u, hrun, hup, hlater⟩ := ih t htp hrest
    rw [suppliedItems_cons]
    exact ⟨u, (run_succ rest.length hst).trans hrun, hup, hfirst.append hlater⟩

/-- Settles O7, by induction on the edges (`run_deliversBatch`): each edge delivers the batch of its own item, and
batches join. -/
theorem pinLevelAgreesWithTransactions : Obligations.PinLevelAgreesWithTransactions := by
  intro s edges hr
  obtain ⟨t, hrun, hp, hbatch⟩ := run_deliversBatch edges { s with inputs := edges } rfl hr
  obtain ⟨hview, hpackets⟩ := process_congr (s := { s with inputs := edges }) (s' := s) rfl (suppliedItems edges)
  obtain ⟨hregs, hdel, hlen⟩ := hbatch.congr_result hview hpackets
  refine ⟨t, hrun, hdel, hlen, (eq_transactionView_with_outputs (inputs_eq_nil_of_pending hp)).trans ?_⟩
  rw [hregs]
  rfl

end Sys2Proof.Machine
end

/-! PROOFS. The statements about 10_state.md: the reset values (R32), the invariant (R31), the control state (R21), the
whitener offset (R25) and the output strobe (R35). -/

namespace Sys2Proof.Machine

/-! ## The values of one state -/

/-- Settles O12, by evaluating the code of each control state. -/
theorem controlStateCodes : Obligations.ControlStateCodes := by
  refine ⟨rfl, rfl, rfl, fun c => ?_, rfl⟩
  cases c <;> rfl

theorem registersOk_of_syncSearch {s : State} (h : s.st = .syncSearch) :
    RegistersOk s ↔ s.hdr = 0 ∧ s.hdrCnt = 0 ∧ PayloadIdle s := by
  simp only [RegistersOk, h]

theorem registersOk_of_haveSync {s : State} (h : s.st = .haveSync) :
    RegistersOk s ↔ s.hdr.toNat < 2 ^ s.hdrCnt.toNat ∧ 1 ≤ s.hdrCnt.toNat ∧ PayloadIdle s := by
  simp only [RegistersOk, h]

theorem registersOk_of_haveHeader {s : State} (h : s.st = .haveHeader) :
    RegistersOk s ↔ s.hdr = 0 ∧ s.hdrCnt = 0 ∧ DecodedLength s.pktLen ∧ s.whOff = 0 ∧
      s.pbyte.toNat < 2 ^ s.bitIdx.toNat ∧ s.byteCnt.toNat < s.pktLen.toNat := by
  simp only [RegistersOk, h]

theorem Canonical.registersOk {s : State} (h : Canonical s) : RegistersOk s :=
  (registersOk_of_syncSearch h.1).2 h.2

theorem Canonical.byteCnt {s : State} (h : Canonical s) : s.byteCnt = 0 := by
  obtain ⟨-, -, -, -, -, -, -, hbyte⟩ := h
  exact hbyte

theorem enterSearch_canonical (s : State) : Canonical (enterSearch s) := ⟨rfl, rfl, rfl, rfl, rfl, rfl, rfl, rfl⟩

theorem resetOf_canonical (n : Nat) : Canonical (State.resetOf n) := enterSearch_canonical (State.resetOf n)

theorem committedOk_of_byteCnt_zero {s : State} (h : s.byteCnt = 0) : CommittedOk s := by
  intro j hj
  simp [h] at hj

/-- Settles O39: the reset state is canonical (`resetOf_canonical`), and its other fields are their values by
definition. -/
theorem resetStateValues : Obligations.ResetStateValues :=
  ⟨fun n => ⟨resetOf_canonical n, rfl, rfl, rfl, rfl, Memory.lookup_nil, rfl⟩, 6, rfl⟩

theorem resetOf_inv (n : Nat) : Inv (State.resetOf n) where
  registers := (resetOf_canonical n).registersOk
  committed := committedOk_of_byteCnt_zero rfl
  memory := Memory.nil_wf
  packets := fun _ hp => absurd hp List.not_mem_nil
  strobe := fun hv => absurd hv Bool.false_ne_true

/-- Settles O40: a reset state is canonical, with nothing committed, stored, delivered or announced. -/
theorem resetMeetsTheInvariant : Obligations.ResetMeetsTheInvariant := ⟨resetOf_inv 6, resetOf_inv⟩

/-! ## What an item can do -/

/-- The length a header that is not tied declares (41_header.md R103, R104). -/
def declaredLength (h : Header) : Index := if weight h < 12 then 5 else 260

theorem declaredLength_decoded (h : Header) : DecodedLength (declaredLength h) := by
  unfold declaredLength DecodedLength
  split <;> simp

/-- The rows of 40_frame_sync.md R90: from `s` the item has the result on the right. `itemStep_iff` says that this is
the model's step. -/
inductive ItemStep : Instr → State → State × Option Packet → Prop
  | sync (d : Bit) (s : State) : ItemStep (.sync d) s (enterSync d s, none)
  | search {d : Bit} {s : State} (hst : s.st = .syncSearch) : ItemStep (.data d) s (s, none)
  | hdrShift {d : Bit} {s : State} (hst : s.st = .haveSync) (hcnt : s.hdrCnt.toNat < 31) :
      ItemStep (.data d) s (hdrShift d s)
  | hdrTied {d : Bit} {s : State} (hst : s.st = .haveSync) (hcnt : s.hdrCnt.toNat = 31)
      (hw : weight (shiftIn s.hdr d) = 12) : ItemStep (.data d) s (enterSearch s, none)
  | hdrAccepted {d : Bit} {s : State} (hst : s.st = .haveSync) (hcnt : s.hdrCnt.toNat = 31)
      (hw : weight (shiftIn s.hdr d) ≠ 12) :
      ItemStep (.data d) s (enterHaveHeader (declaredLength (shiftIn s.hdr d)) 0 s, none)
  | payShift {d : Bit} {s : State} (hst : s.st = .haveHeader) (hidx : s.bitIdx.toNat < 7) :
      ItemStep (.data d) s (payShift d s)
  | payCommit {d : Bit} {s : State} (hst : s.st = .haveHeader) (hidx : s.bitIdx.toNat = 7)
      (hbyte : s.byteCnt.toNat + 1 < s.pktLen.toNat) : ItemStep (.data d) s (payCommit d s)
  | payLast {d : Bit} {s : State} (hst : s.st = .haveHeader) (hidx : s.bitIdx.toNat = 7)
      (hbyte : s.pktLen.toNat ≤ s.byteCnt.toNat + 1) : ItemStep (.data d) s (payLast d s)

/-- A header that is not tied enters `HAVE_HEADER` with its declared length. -/
theorem hdrDone_of_not_tied {d : Bit} {s : State} (h : weight (shiftIn s.hdr d) ≠ 12) :
    hdrDone d s = (enterHaveHeader (declaredLength (shiftIn s.hdr d)) 0 s, none) := by
  rcases hdrDone_cases d s with ⟨hw, -⟩ | ⟨hw, heq⟩ | ⟨hw, heq⟩
  · exact absurd hw h
  · rw [heq, declaredLength, if_pos hw]
  · rw [heq, declaredLength, if_neg (by omega)]

/-- A tied header returns to `SYNC_SEARCH`. -/
theorem hdrDone_of_tied {d : Bit} {s : State} (h : weight (shiftIn s.hdr d) = 12) :
    hdrDone d s = (enterSearch s, none) := by
  rcases hdrDone_cases d s with ⟨-, heq⟩ | ⟨hw, -⟩ | ⟨hw, -⟩
  · exact heq
  · omega
  · omega

/-- Every item's step is one of the rows. -/
theorem stepItem_itemStep (i : Instr) (s : State) : ItemStep i s (stepItem i s) := by
  rcases i with d | d
  · exact .sync d s
  show ItemStep (.data d) s (dataItem d s)
  rcases dataItem_cases d s with ⟨hst, h⟩ | ⟨hst, hcnt, h⟩ | ⟨hst, hcnt, h⟩ | ⟨hst, hidx, h⟩ | ⟨hst, hidx, hbyte, h⟩ |
    ⟨hst, hidx, hbyte, h⟩ <;> rw [h]
  · exact .search hst
  · exact .hdrShift hst hcnt
  · by_cases hw : weight (shiftIn s.hdr d) = 12
    · exact hdrDone_of_tied hw ▸ .hdrTied hst hcnt hw
    · exact hdrDone_of_not_tied hw ▸ .hdrAccepted hst hcnt hw
  · exact .payShift hst hidx
  · exact .payCommit hst hidx hbyte
  · exact .payLast hst hidx hbyte

/-- A row says what the step's result is. -/
theorem ItemStep.stepItem_eq {i : Instr} {s : State} {r : State × Option Packet} (h : ItemStep i s r) :
    stepItem i s = r := by
  cases h with
  | sync d => rfl
  | search hst => simp only [stepItem, dataItem, hst, dataSearch]
  | hdrShift hst hcnt => simp only [stepItem, dataItem, hst, if_pos (show s.hdrCnt.toNat + 1 < 32 by omega)]
  | hdrTied hst hcnt hw =>
    simp only [stepItem, dataItem, hst, if_neg (show ¬ s.hdrCnt.toNat + 1 < 32 by omega), hdrDone_of_tied hw]
  | hdrAccepted hst hcnt hw =>
    simp only [stepItem, dataItem, hst, if_neg (show ¬ s.hdrCnt.toNat + 1 < 32 by omega), hdrDone_of_not_tied hw]
  | payShift hst hidx => simp only [stepItem, dataItem, hst, if_pos (show s.bitIdx.toNat + 1 < 8 by omega)]
  | payCommit hst hidx hbyte =>
    simp only [stepItem, dataItem, hst, if_neg (show ¬ s.bitIdx.toNat + 1 < 8 by omega), if_pos hbyte]
  | payLast hst hidx hbyte =>
    simp only [stepItem, dataItem, hst, if_neg (show ¬ s.bitIdx.toNat + 1 < 8 by omega), if_neg (not_lt.2 hbyte)]

/-- The rows are the model's step. -/
theorem itemStep_iff {i : Instr} {s : State} {r : State × Option Packet} : ItemStep i s r ↔ stepItem i s = r :=
  ⟨ItemStep.stepItem_eq, fun h => h ▸ stepItem_itemStep i s⟩

/-! ## The pins of a step -/

@[simp] theorem publish_st (r : State × Option Packet) : (publish r).st = r.1.st := by
  obtain ⟨s, _ | p⟩ := r <;> rfl

@[simp] theorem publish_whOff (r : State × Option Packet) : (publish r).whOff = r.1.whOff := by
  obtain ⟨s, _ | p⟩ := r <;> rfl

/-- Taking the next edge changes the input list only. -/
theorem nextEdge_frame (s : State) : ∃ rest, (nextEdge s).2 = { s with inputs := rest } := by
  rcases hi : s.inputs with _ | ⟨e, rest⟩
  · exact ⟨s.inputs, by rw [nextEdge_nil hi]⟩
  · exact ⟨rest, by rw [nextEdge_cons hi]⟩

/-- What the output pins and the sink's record show after a step with output `r`. -/
theorem publish_strobe (r : State × Option Packet) :
    ((publish r).outValid = true ∧
        ∃ p, (publish r).delivered = r.1.delivered ++ [p] ∧ (publish r).outLen = p.length) ∨
      ((publish r).outValid = false ∧ (publish r).delivered = r.1.delivered ∧ (publish r).outLen = r.1.outLen) := by
  obtain ⟨s, _ | p⟩ := r
  · exact .inr ⟨rfl, rfl, rfl⟩
  · exact .inl ⟨rfl, p, rfl, rfl⟩

/-- Settles O34: a reset edge clears the output registers, and every other edge publishes the output of its item, or
none. -/
theorem strobeFollowsTheEmission : Obligations.StrobeFollowsTheEmission := by
  intro s t h
  obtain ⟨rest, hnext⟩ := nextEdge_frame s
  rcases step_cases h with ⟨hr, rfl⟩ | ⟨hr, -, rfl⟩ | ⟨hr, -, rfl⟩ <;> rw [hr, hnext]
  · exact .inr ⟨rfl, rfl, rfl⟩
  · simpa using publish_strobe (stepItem (decode (nextEdge s).1.inItem) { s with inputs := rest })
  · exact publish_strobe ({ s with inputs := rest }, none)

/-! ## The whitener offset -/

theorem ItemStep.whOff {i : Instr} {s : State} {r : State × Option Packet} (h : ItemStep i s r) (h0 : s.whOff = 0) :
    r.1.whOff = 0 := by
  cases h with
  | sync | hdrTied | hdrAccepted | payLast => rfl
  | search | hdrShift | payShift | payCommit => exact h0

/-- Settles O24: an item clears the offset or keeps it (`ItemStep.whOff`), a reset edge clears it, an idle edge keeps
it. -/
theorem whitenerOffsetStaysZero : Obligations.WhitenerOffsetStaysZero := by
  intro s t h0 h
  have hnext : (nextEdge s).2.whOff = 0 := by
    obtain ⟨rest, hnext⟩ := nextEdge_frame s
    rw [hnext]
    exact h0
  rcases step_cases h with ⟨-, rfl⟩ | ⟨-, -, rfl⟩ | ⟨-, -, rfl⟩
  · rfl
  · simpa using (stepItem_itemStep _ (nextEdge s).2).whOff hnext
  · exact hnext

/-! ## The control state -/

theorem ItemStep.of_haveSync {i : Instr} {s : State} {r : State × Option Packet} (h : ItemStep i s r)
    (ht : r.1.st = .haveSync) :
    (∃ d, i = .sync d) ∨ ((∃ d, i = .data d) ∧ s.st = .haveSync ∧ s.hdrCnt.toNat < 31) := by
  cases h with
  | sync d => exact .inl ⟨d, rfl⟩
  | hdrShift hst hcnt => exact .inr ⟨⟨_, rfl⟩, hst, hcnt⟩
  | search hst | payShift hst | payCommit hst => exact absurd (hst.symm.trans ht) (by decide)
  | hdrTied | hdrAccepted | payLast => cases ht

theorem ItemStep.of_haveHeader {i : Instr} {s : State} {r : State × Option Packet} (h : ItemStep i s r)
    (ht : r.1.st = .haveHeader) :
    (∃ d, i = .data d) ∧
      ((s.st = .haveHeader ∧ (s.bitIdx.toNat < 7 ∨ s.byteCnt.toNat + 1 < s.pktLen.toNat)) ∨
       (s.st = .haveSync ∧ s.hdrCnt = 31 ∧ ∀ d, i = .data d → weight (shiftIn s.hdr d) ≠ 12)) := by
  cases h with
  | hdrAccepted hst hcnt hw =>
    exact ⟨⟨_, rfl⟩, .inr ⟨hst, BitVec.eq_of_toNat_eq hcnt, fun d hd => Instr.data.inj hd ▸ hw⟩⟩
  | payShift hst hidx => exact ⟨⟨_, rfl⟩, .inl ⟨hst, .inl hidx⟩⟩
  | payCommit hst hidx hbyte => exact ⟨⟨_, rfl⟩, .inl ⟨hst, .inr hbyte⟩⟩
  | search hst | hdrShift hst => exact absurd (hst.symm.trans ht) (by decide)
  | sync | hdrTied | payLast => cases ht

/-- In a state of 10_state.md R31 the last payload bit comes when exactly one byte is missing. -/
theorem RegistersOk.last_byte {s : State} (hreg : RegistersOk s) (hst : s.st = .haveHeader)
    (hbyte : s.pktLen.toNat ≤ s.byteCnt.toNat + 1) : s.byteCnt.toNat + 1 = s.pktLen.toNat := by
  obtain ⟨-, -, -, -, -, hlt⟩ := (registersOk_of_haveHeader hst).1 hreg
  omega

theorem ItemStep.of_syncSearch {i : Instr} {s : State} {r : State × Option Packet} (h : ItemStep i s r)
    (ht : r.1.st = .syncSearch) :
    (∃ d, i = .data d) ∧
      (s.st = .syncSearch ∨
       (s.st = .haveSync ∧ s.hdrCnt = 31 ∧ ∀ d, i = .data d → weight (shiftIn s.hdr d) = 12) ∨
       (s.st = .haveHeader ∧ s.bitIdx = 7 ∧ s.pktLen.toNat ≤ s.byteCnt.toNat + 1 ∧
        (RegistersOk s → s.byteCnt.toNat + 1 = s.pktLen.toNat))) := by
  cases h with
  | search hst => exact ⟨⟨_, rfl⟩, .inl hst⟩
  | hdrTied hst hcnt hw =>
    exact ⟨⟨_, rfl⟩, .inr (.inl ⟨hst, BitVec.eq_of_toNat_eq hcnt, fun d hd => Instr.data.inj hd ▸ hw⟩)⟩
  | payLast hst hidx hbyte =>
    exact ⟨⟨_, rfl⟩, .inr (.inr ⟨hst, BitVec.eq_of_toNat_eq hidx, hbyte, fun hreg => hreg.last_byte hst hbyte⟩)⟩
  | hdrShift hst | payShift hst | payCommit hst => exact absurd (hst.symm.trans ht) (by decide)
  | sync | hdrAccepted => cases ht

/-- Settles O11: the rows of R90 that lead into each control state, read off `ItemStep`. -/
theorem controlStateEntries : Obligations.ControlStateEntries := by
  intro i s t h
  obtain rfl := Host.Outcome.next.inj ((exec_eq i s).symm.trans h)
  have hrow := stepItem_itemStep i s
  rw [publish_st]
  exact ⟨hrow.of_haveSync, hrow.of_haveHeader, hrow.of_syncSearch⟩

/-! ## The invariant -/

/-- Shifting an operand in takes one bit more. -/
theorem shiftIn_toNat_lt {w n : Nat} {v : BitVec w} (d : Bit) (h : v.toNat < 2 ^ n) :
    (shiftIn v d).toNat < 2 ^ (n + 1) := by
  have hv : (v <<< 1).toNat < 2 ^ (n + 1) := by
    rw [BitVec.toNat_shiftLeft, Nat.shiftLeft_eq]
    exact (Nat.mod_le _ _).trans_lt (by omega)
  have hd : (d.setWidth w).toNat < 2 ^ (n + 1) := by
    rw [BitVec.toNat_setWidth]
    calc d.toNat % 2 ^ w ≤ d.toNat := Nat.mod_le _ _
      _ < 2 ^ 1 := d.isLt
      _ ≤ 2 ^ (n + 1) := Nat.pow_le_pow_right (by decide) (by omega)
  rw [shiftIn, BitVec.toNat_or]
  exact Nat.or_lt_two_pow hv hd

theorem Memory.isSome_lookup_store {m : Memory} {a b : Nat} (v : Byte) (h : b ≠ a → (m.lookup b).isSome) :
    ((m.store a v).lookup b).isSome := by
  by_cases hab : b = a
  · subst hab; simp
  · rw [Memory.lookup_store_of_ne m v hab]
    exact h hab

theorem DecodedLength.pos {len : Index} (h : DecodedLength len) : 0 < len.toNat := by
  rcases h with rfl | rfl <;> decide

theorem enterSync_registersOk (d : Bit) (s : State) : RegistersOk (enterSync d s) := by
  refine (registersOk_of_haveSync rfl).2 ⟨?_, le_refl 1, rfl, rfl, rfl, rfl, rfl⟩
  rw [enterSync_hdr, BitVec.toNat_setWidth]
  exact (Nat.mod_le _ _).trans_lt d.isLt

theorem enterHaveHeader_registersOk {len : Index} (h : DecodedLength len) (s : State) :
    RegistersOk (enterHaveHeader len 0 s) :=
  (registersOk_of_haveHeader rfl).2 ⟨rfl, rfl, h, rfl, Nat.zero_lt_one, h.pos⟩

/-- Every item leads to its control state's row of 10_state.md R31. -/
theorem ItemStep.registersOk {i : Instr} {s : State} {r : State × Option Packet} (h : ItemStep i s r)
    (hreg : RegistersOk s) : RegistersOk r.1 := by
  cases h with
  | sync d => exact enterSync_registersOk d s
  | search hst => exact hreg
  | hdrShift hst hcnt =>
    obtain ⟨hhdr, -, hidle⟩ := (registersOk_of_haveSync hst).1 hreg
    refine (registersOk_of_haveSync (s := (Machine.hdrShift _ s).1) hst).2 ⟨?_, ?_, hidle⟩
    · exact (hdrCnt_succ hcnt).symm ▸ shiftIn_toNat_lt _ hhdr
    · exact (hdrCnt_succ hcnt).symm ▸ Nat.le_add_left 1 _
  | hdrTied | payLast => exact (enterSearch_canonical _).registersOk
  | hdrAccepted => exact enterHaveHeader_registersOk (declaredLength_decoded _) s
  | payShift hst hidx =>
    obtain ⟨hhdr, hcnt, hlen, hoff, hacc, hbyte⟩ := (registersOk_of_haveHeader hst).1 hreg
    refine (registersOk_of_haveHeader (s := (Machine.payShift _ s).1) hst).2 ⟨hhdr, hcnt, hlen, hoff, ?_, hbyte⟩
    exact (bitIdx_succ hidx).symm ▸ shiftIn_toNat_lt _ hacc
  | payCommit hst hidx hbyte =>
    obtain ⟨hhdr, hcnt, hlen, hoff, -, hlt⟩ := (registersOk_of_haveHeader hst).1 hreg
    refine (registersOk_of_haveHeader (s := (Machine.payCommit _ s).1) hst).2
      ⟨hhdr, hcnt, hlen, hoff, Nat.zero_lt_one, ?_⟩
    exact (byteCnt_succ hlt).symm ▸ hbyte

/-- Every item leaves the committed bytes of its packet in the buffer. -/
theorem ItemStep.committedOk {i : Instr} {s : State} {r : State × Option Packet} (h : ItemStep i s r)
    (hcom : CommittedOk s) : CommittedOk r.1 := by
  cases h with
  | sync | hdrTied | hdrAccepted | payLast => exact committedOk_of_byteCnt_zero rfl
  | search | hdrShift | payShift => exact hcom
  | payCommit hst hidx hbyte =>
    intro j hj
    have hj' : j < s.byteCnt.toNat + 1 := (byteCnt_succ (Nat.lt_of_succ_lt hbyte)) ▸ hj
    exact Memory.isSome_lookup_store _ fun hne => hcom j (by omega)

theorem ItemStep.memory_wf {i : Instr} {s : State} {r : State × Option Packet} (h : ItemStep i s r)
    (hwf : s.buf.wf) : r.1.buf.wf := by
  cases h with
  | sync | search | hdrShift | hdrTied | hdrAccepted | payShift => exact hwf
  | payCommit | payLast => exact bufWrite_wf s.byteCnt _ hwf

/-- Only the last payload bit emits, and then a packet of the declared length. -/
theorem ItemStep.packetOk {i : Instr} {s : State} {r : State × Option Packet} (h : ItemStep i s r)
    (hreg : RegistersOk s) : ∀ p ∈ r.2, PacketOk p := by
  cases h with
  | sync | search | hdrShift | hdrTied | hdrAccepted | payShift | payCommit => exact fun p hp => nomatch hp
  | payLast hst hidx hbyte =>
    obtain ⟨-, -, hlen, -, -, -⟩ := (registersOk_of_haveHeader hst).1 hreg
    rintro p ⟨⟩
    exact ⟨bufPrefix_length _ _, hlen⟩

/-- Publishing a well-formed output gives the invariant, whatever the strobe was before. -/
theorem publish_inv {r : State × Option Packet} (hreg : RegistersOk r.1) (hcom : CommittedOk r.1)
    (hwf : r.1.buf.wf) (hold : ∀ p ∈ r.1.delivered, PacketOk p) (hnew : ∀ p ∈ r.2, PacketOk p) :
    Inv (publish r) := by
  obtain ⟨s, _ | p⟩ := r
  · exact ⟨hreg, hcom, hwf, hold, fun hv => absurd hv Bool.false_ne_true⟩
  · refine ⟨hreg, hcom, hwf, fun q hq => ?_, fun _ => ⟨p, List.getLast?_concat, rfl⟩⟩
    rcases List.mem_append.1 hq with hq | hq
    · exact hold q hq
    · exact List.mem_singleton.1 hq ▸ hnew p rfl

theorem stepItem_inv (i : Instr) {s : State} (h : Inv s) : Inv (publish (stepItem i s)) := by
  have hrow := stepItem_itemStep i s
  refine publish_inv (hrow.registersOk h.registers) (hrow.committedOk h.committed) (hrow.memory_wf h.memory) ?_
    (hrow.packetOk h.registers)
  rw [stepItem_delivered]
  exact h.packets

theorem resetEdge_inv {s : State} (h : ∀ p ∈ s.delivered, PacketOk p) : Inv (resetEdge s) where
  registers := (registersOk_of_syncSearch rfl).2 (enterSearch_canonical s).2
  committed := committedOk_of_byteCnt_zero rfl
  memory := resetEdge_wf s
  packets := h
  strobe := fun hv => absurd hv Bool.false_ne_true

theorem nextEdge_inv {s : State} (h : Inv s) : Inv (nextEdge s).2 := by
  obtain ⟨rest, hnext⟩ := nextEdge_frame s
  rw [hnext]
  exact ⟨h.registers, h.committed, h.memory, h.packets, h.strobe⟩

/-- Settles O41: the invariant does not read the input list (`nextEdge_inv`), and a reset edge, an item and an idle edge
each give it (`resetEdge_inv`, `stepItem_inv`, `publish_inv`). -/
theorem stepKeepsTheInvariant : Obligations.StepKeepsTheInvariant := by
  intro s t hs h
  have hnext := nextEdge_inv hs
  rcases step_cases h with ⟨-, rfl⟩ | ⟨-, -, rfl⟩ | ⟨-, -, rfl⟩
  · exact resetEdge_inv hnext.packets
  · exact stepItem_inv _ hnext
  · exact publish_inv hnext.registers hnext.committed hnext.memory hnext.packets fun p hp => nomatch hp

/-! ## Stale buffer bytes -/

/-- Two states with the same registers whose buffers agree on the bytes committed in the current packet. What else the
buffers list, and the free values, may differ. -/
structure SamePacket (s s' : State) : Prop where
  st : s.st = s'.st
  hdr : s.hdr = s'.hdr
  hdrCnt : s.hdrCnt = s'.hdrCnt
  pktLen : s.pktLen = s'.pktLen
  whOff : s.whOff = s'.whOff
  pbyte : s.pbyte = s'.pbyte
  bitIdx : s.bitIdx = s'.bitIdx
  byteCnt : s.byteCnt = s'.byteCnt
  bytes : ∀ j : Index, j.toNat < s.byteCnt.toNat → bufRead j s = bufRead j s'

/-- Before the first payload byte the buffers do not count. -/
theorem Canonical.samePacket {s s' : State} (h : Canonical s) (h' : Canonical s') : SamePacket s s' := by
  have hzero := h.byteCnt
  obtain ⟨hst, hhdr, hcnt, hlen, hoff, hacc, hidx, hbyte⟩ := h
  obtain ⟨hst', hhdr', hcnt', hlen', hoff', hacc', hidx', hbyte'⟩ := h'
  exact ⟨hst.trans hst'.symm, hhdr.trans hhdr'.symm, hcnt.trans hcnt'.symm, hlen.trans hlen'.symm,
    hoff.trans hoff'.symm, hacc.trans hacc'.symm, hidx.trans hidx'.symm, hbyte.trans hbyte'.symm,
    fun j hj => absurd hj (by simp [hzero])⟩

theorem enterSync_samePacket (d : Bit) (s s' : State) : SamePacket (enterSync d s) (enterSync d s') :=
  ⟨rfl, rfl, rfl, rfl, rfl, rfl, rfl, rfl, fun _ hj => absurd hj (Nat.not_lt_zero _)⟩

theorem enterHaveHeader_samePacket (len : Index) (s s' : State) :
    SamePacket (enterHaveHeader len 0 s) (enterHaveHeader len 0 s') :=
  ⟨rfl, rfl, rfl, rfl, rfl, rfl, rfl, rfl, fun _ hj => absurd hj (Nat.not_lt_zero _)⟩

/-- Committing a byte makes the buffers agree on it too. -/
theorem SamePacket.bufRead_committed {s s' : State} (h : SamePacket s s') (d : Bit) {j : Index}
    (hj : j.toNat ≤ s.byteCnt.toNat) :
    bufRead j (bufWrite s.byteCnt (shiftIn s.pbyte d) s) = bufRead j (bufWrite s'.byteCnt (shiftIn s'.pbyte d) s') := by
  rw [← h.byteCnt, ← h.pbyte]
  by_cases hne : j = s.byteCnt
  · simp [hne]
  · have hlt : j.toNat < s.byteCnt.toNat := lt_of_le_of_ne hj fun e => hne (BitVec.eq_of_toNat_eq e)
    rw [bufRead_bufWrite_of_ne _ s hne, bufRead_bufWrite_of_ne _ s' hne, h.bytes j hlt]

theorem bufPrefix_congr {len : Index} {s s' : State}
    (h : ∀ j : Index, j.toNat < len.toNat → bufRead j s = bufRead j s') : bufPrefix len s = bufPrefix len s' :=
  List.map_congr_left fun _ hj => h _ ((Nat.mod_le _ _).trans_lt (List.mem_range.1 hj))

theorem hdrShift_samePacket (d : Bit) {s s' : State} (h : SamePacket s s') :
    SamePacket (hdrShift d s).1 (hdrShift d s').1 :=
  ⟨h.st, congrArg (shiftIn · d) h.hdr, congrArg (· + 1) h.hdrCnt, h.pktLen, h.whOff, h.pbyte, h.bitIdx, h.byteCnt,
    h.bytes⟩

theorem payShift_samePacket (d : Bit) {s s' : State} (h : SamePacket s s') :
    SamePacket (payShift d s).1 (payShift d s').1 :=
  ⟨h.st, h.hdr, h.hdrCnt, h.pktLen, h.whOff, congrArg (shiftIn · d) h.pbyte, congrArg (· + 1) h.bitIdx, h.byteCnt,
    h.bytes⟩

theorem payCommit_samePacket (d : Bit) {s s' : State} (h : SamePacket s s')
    (hbyte : s.byteCnt.toNat + 1 < s.pktLen.toNat) : SamePacket (payCommit d s).1 (payCommit d s').1 := by
  refine ⟨h.st, h.hdr, h.hdrCnt, h.pktLen, h.whOff, rfl, rfl, congrArg (· + 1) h.byteCnt, fun j hj => ?_⟩
  have hj' : j.toNat < s.byteCnt.toNat + 1 := byteCnt_succ (Nat.lt_of_succ_lt hbyte) ▸ hj
  exact h.bufRead_committed d (Nat.le_of_lt_succ hj')

/-- The emitted packet has committed bytes and the byte just written, and nothing else. -/
theorem payLast_packet_eq (d : Bit) {s s' : State} (h : SamePacket s s')
    (hbyte : s.pktLen.toNat ≤ s.byteCnt.toNat + 1) : (payLast d s).2 = (payLast d s').2 := by
  have hbytes : bufPrefix s.pktLen (bufWrite s.byteCnt (shiftIn s.pbyte d) s) =
      bufPrefix s'.pktLen (bufWrite s'.byteCnt (shiftIn s'.pbyte d) s') := by
    rw [← h.pktLen]
    exact bufPrefix_congr fun j hj => h.bufRead_committed d (by omega)
  exact congrArg some (congrArg₂ Packet.mk hbytes h.pktLen)

/-- A simulation: the same item takes the same row from both states, gives the same output, and leads to two such
states again. -/
theorem SamePacket.stepItem {s s' : State} (h : SamePacket s s') (i : Instr) :
    SamePacket (stepItem i s).1 (stepItem i s').1 ∧ (stepItem i s).2 = (stepItem i s').2 := by
  suffices hsim : ∃ r', ItemStep i s' r' ∧ SamePacket (Machine.stepItem i s).1 r'.1 ∧
      (Machine.stepItem i s).2 = r'.2 by
    obtain ⟨r', hrow, hresult⟩ := hsim
    rwa [hrow.stepItem_eq]
  have hrow := stepItem_itemStep i s
  generalize Machine.stepItem i s = r at hrow ⊢
  cases hrow with
  | sync d => exact ⟨_, .sync d s', enterSync_samePacket d s s', rfl⟩
  | search hst => exact ⟨_, .search (h.st ▸ hst), h, rfl⟩
  | hdrShift hst hcnt => exact ⟨_, .hdrShift (h.st ▸ hst) (h.hdrCnt ▸ hcnt), hdrShift_samePacket _ h, rfl⟩
  | hdrTied hst hcnt hw =>
    exact ⟨_, .hdrTied (h.st ▸ hst) (h.hdrCnt ▸ hcnt) (h.hdr ▸ hw),
      (enterSearch_canonical s).samePacket (enterSearch_canonical s'), rfl⟩
  | hdrAccepted hst hcnt hw =>
    refine ⟨_, .hdrAccepted (h.st ▸ hst) (h.hdrCnt ▸ hcnt) (h.hdr ▸ hw), ?_, rfl⟩
    rw [h.hdr]
    exact enterHaveHeader_samePacket _ s s'
  | payShift hst hidx => exact ⟨_, .payShift (h.st ▸ hst) (h.bitIdx ▸ hidx), payShift_samePacket _ h, rfl⟩
  | payCommit hst hidx hbyte =>
    exact ⟨_, .payCommit (h.st ▸ hst) (h.bitIdx ▸ hidx) (h.byteCnt ▸ h.pktLen ▸ hbyte),
      payCommit_samePacket _ h hbyte, rfl⟩
  | payLast hst hidx hbyte =>
    exact ⟨_, .payLast (h.st ▸ hst) (h.bitIdx ▸ hidx) (h.byteCnt ▸ h.pktLen ▸ hbyte),
      (enterSearch_canonical _).samePacket (enterSearch_canonical _), payLast_packet_eq _ h hbyte⟩

theorem SamePacket.process {s s' : State} (h : SamePacket s s') (items : List Instr) :
    (process items s).2 = (process items s').2 := by
  induction items generalizing s s' with
  | nil => rfl
  | cons i items ih =>
    obtain ⟨hnext, hout⟩ := h.stepItem i
    rw [process_cons, process_cons, hout, ih hnext]

/-- Settles O42: two canonical states are in the simulation `SamePacket`, which every item keeps. -/
theorem staleBufferIsNeverDelivered : Obligations.StaleBufferIsNeverDelivered :=
  fun items _ _ h h' => (h.samePacket h').process items

end Sys2Proof.Machine

/-! PROOFS. The statements about 20_memory.md: the bit order of a header (R45) and of a payload byte (R46). -/

namespace Sys2Proof.Machine

/-! ## Bits shifted in, most significant first -/

/-- The `n` bits of `v` below bit `top`, most significant first. `hdrItems_eq` and `byteItems_eq` tie it to the item
streams of 30_encoding.md R69. -/
def bitsBelow {w : Nat} (v : BitVec w) (top n : Nat) : List Bit := (List.range n).map fun k => bitOf v (top - 1 - k)

@[simp] theorem bitsBelow_length {w : Nat} (v : BitVec w) (top n : Nat) : (bitsBelow v top n).length = n := by
  simp [bitsBelow]

theorem bitsBelow_succ {w : Nat} (v : BitVec w) (top n : Nat) :
    bitsBelow v top (n + 1) = bitsBelow v top n ++ [bitOf v (top - 1 - n)] := by
  simp [bitsBelow, List.range_succ]

theorem bitsBelow_take {w : Nat} (v : BitVec w) (top : Nat) {k n : Nat} (h : k ≤ n) :
    (bitsBelow v top n).take k = bitsBelow v top k := by
  rw [bitsBelow, ← List.map_take, List.take_range, Nat.min_eq_left h, bitsBelow]

theorem cons_bitsBelow {w : Nat} (v : BitVec w) (top n : Nat) :
    bitOf v top :: bitsBelow v top n = bitsBelow v (top + 1) (n + 1) := by
  simp only [bitsBelow, List.range_succ_eq_map, List.map_cons, List.map_map]
  refine congrArg₂ _ rfl (List.map_congr_left fun k _ => congrArg (bitOf v) ?_)
  show top - 1 - k = top + 1 - 1 - (k + 1)
  omega

theorem bitOf_getLsbD {w : Nat} (v : BitVec w) (i : Nat) : (bitOf v i).getLsbD 0 = v.getLsbD i := by
  simp [bitOf]

/-- Shifting bits of `v` into `x` leaves them in the low positions, below what is left of `x`. -/
theorem foldl_shiftIn_bitsBelow_getLsbD {w : Nat} (x v : BitVec w) {top n : Nat} (hn : n ≤ top) {i : Nat}
    (hi : i < w) :
    ((bitsBelow v top n).foldl shiftIn x).getLsbD i =
      if i < n then v.getLsbD (top - n + i) else x.getLsbD (i - n) := by
  induction n generalizing i with
  | zero => simp [bitsBelow]
  | succ n ih =>
    rw [bitsBelow_succ, List.foldl_append, List.foldl_cons, List.foldl_nil, shiftIn_getLsbD, bitOf_getLsbD]
    cases i with
    | zero => simp [hi, show top - 1 - n = top - (n + 1) by omega]
    | succ i =>
      rw [Nat.add_sub_cancel, ih (by omega) (by omega)]
      simp [hi, show top - (n + 1) + (i + 1) = top - n + i by omega]

/-- The top `n` bits of `v`, shifted into an empty register. -/
theorem foldl_shiftIn_zero_bitsBelow {w : Nat} (v : BitVec w) {n : Nat} (hn : n ≤ w) :
    (bitsBelow v w n).foldl shiftIn 0 = v >>> (w - n) := by
  refine BitVec.eq_of_getLsbD_eq fun i hi => ?_
  rw [foldl_shiftIn_bitsBelow_getLsbD 0 v hn hi, BitVec.getLsbD_ushiftRight]
  split
  · rfl
  · rw [BitVec.getLsbD_of_ge v _ (by omega)]
    simp

/-- A whole word shifted in replaces what the register held. -/
theorem foldl_shiftIn_bitsBelow_width {w : Nat} (x v : BitVec w) : (bitsBelow v w w).foldl shiftIn x = v := by
  refine BitVec.eq_of_getLsbD_eq fun i hi => ?_
  rw [foldl_shiftIn_bitsBelow_getLsbD x v le_rfl hi, if_pos hi, Nat.sub_self, Nat.zero_add]

theorem shiftIn_ushiftRight_one {w : Nat} (v : BitVec w) : shiftIn (v >>> 1) (bitOf v 0) = v := by
  refine BitVec.eq_of_getLsbD_eq fun i hi => ?_
  rw [shiftIn_getLsbD, bitOf_getLsbD, BitVec.getLsbD_ushiftRight]
  cases i <;> simp [hi, Nat.add_comm]

theorem shiftIn_zero {w : Nat} (d : Bit) : shiftIn (0 : BitVec w) d = d.setWidth w := by
  simp [shiftIn]

/-! ## Batches that emit nothing -/

theorem dbitsItems_cons (d : Bit) (bits : List Bit) : dbitsItems (d :: bits) = .data d :: dbitsItems bits := rfl

/-- After an item that emits nothing the batch goes on from its end state. -/
theorem process_cons_of_silent {i : Instr} {items : List Instr} {s t : State} (h : stepItem i s = (t, none)) :
    process (i :: items) s = process items t := by
  rw [process_cons, h]
  rfl

/-- After a batch that emits nothing the next one goes on from its end state. -/
theorem process_append_of_silent {a b : List Instr} {s t : State} (h : process a s = (t, [])) :
    process (a ++ b) s = process b t := by
  rw [process_append, h]
  rfl

/-- Counting one more and then `n` more. -/
theorem add_one_add_ofNat {w : Nat} (x : BitVec w) (n : Nat) :
    x + 1 + BitVec.ofNat w n = x + BitVec.ofNat w (n + 1) := by
  rw [BitVec.ofNat_add, BitVec.add_assoc, BitVec.add_comm (BitVec.ofNat w n)]
  rfl

/-! ## Headers (R45) -/

/-- Header bits up to the 31st are shifted in one after the other (41_header.md R100). -/
theorem process_headerBits (bits : List Bit) {s : State} (hst : s.st = .haveSync)
    (hcnt : s.hdrCnt.toNat + bits.length ≤ 31) :
    process (dbitsItems bits) s =
      ({ s with hdr := bits.foldl shiftIn s.hdr, hdrCnt := s.hdrCnt + BitVec.ofNat _ bits.length }, []) := by
  induction bits generalizing s with
  | nil => simp [dbitsItems]
  | cons d bits ih =>
    rw [List.length_cons] at hcnt ⊢
    have hlt : s.hdrCnt.toNat < 31 := by omega
    have hst' : (hdrShift d s).1.st = .haveSync := hst
    have hnext : (hdrShift d s).1.hdrCnt.toNat = s.hdrCnt.toNat + 1 := hdrCnt_succ hlt
    have hstep : stepItem (.data d) s = ((hdrShift d s).1, none) := (ItemStep.hdrShift hst hlt).stepItem_eq
    rw [dbitsItems_cons, process_cons_of_silent hstep, ih hst' (by omega), List.foldl_cons, ← add_one_add_ofNat]
    rfl

theorem hdrItems_eq (h : Header) : hdrItems h = .sync (bitOf h 31) :: dbitsItems (bitsBelow h 31 31) := rfl

theorem hdrItems_take (h : Header) {k : Nat} (hk : k ≤ 31) :
    (hdrItems h).take (k + 1) = .sync (bitOf h 31) :: dbitsItems (bitsBelow h 31 k) := by
  rw [hdrItems_eq, List.take_succ_cons, dbitsItems, ← List.map_take, bitsBelow_take h 31 hk, dbitsItems]

/-- From any state, the first `k + 1` items of `HDR(H)` leave the top `k + 1` bits of `H` in the register. -/
theorem process_hdrItems_take (h : Header) (s : State) {k : Nat} (hk : k ≤ 30) :
    process ((hdrItems h).take (k + 1)) s =
      ({ enterSync (bitOf h 31) s with hdr := h >>> (31 - k), hdrCnt := 1 + BitVec.ofNat _ k }, []) := by
  have hhdr : (bitsBelow h 31 k).foldl shiftIn (enterSync (bitOf h 31) s).hdr = h >>> (31 - k) := by
    calc (bitsBelow h 31 k).foldl shiftIn ((bitOf h 31).setWidth 32)
        = (bitOf h 31 :: bitsBelow h 31 k).foldl shiftIn 0 := by rw [List.foldl_cons, shiftIn_zero]
      _ = h >>> (32 - (k + 1)) := by rw [cons_bitsBelow, foldl_shiftIn_zero_bitsBelow h (Nat.succ_le_succ (by omega))]
      _ = h >>> (31 - k) := congrArg (h >>> ·) (Nat.add_sub_add_right 31 1 k)
  have hcnt : (enterSync (bitOf h 31) s).hdrCnt.toNat + (bitsBelow h 31 k).length ≤ 31 := by
    rw [bitsBelow_length]
    exact Nat.add_le_add_left hk 1
  rw [hdrItems_take h (by omega), process_cons_of_silent (ItemStep.sync _ s).stepItem_eq, process_headerBits _ rfl hcnt,
    hhdr, bitsBelow_length]
  rfl

/-- Settles O14: the register after 31 items by `process_hdrItems_take`, and bit 0 shifted into `H >> 1` gives `H`. -/
theorem headerIsSentMostSignificantBitFirst : Obligations.HeaderIsSentMostSignificantBitFirst :=
  fun h s => ⟨process_hdrItems_take h s (le_refl 30), rfl, shiftIn_ushiftRight_one h⟩

/-! ## Payload bytes (R46) -/

/-- Payload bits up to the seventh of a byte are shifted in one after the other (42_payload.md R120). -/
theorem process_payloadBits (bits : List Bit) {s : State} (hst : s.st = .haveHeader)
    (hidx : s.bitIdx.toNat + bits.length ≤ 7) :
    process (dbitsItems bits) s =
      ({ s with pbyte := bits.foldl shiftIn s.pbyte, bitIdx := s.bitIdx + BitVec.ofNat _ bits.length }, []) := by
  induction bits generalizing s with
  | nil => simp [dbitsItems]
  | cons d bits ih =>
    rw [List.length_cons] at hidx ⊢
    have hlt : s.bitIdx.toNat < 7 := by omega
    have hst' : (payShift d s).1.st = .haveHeader := hst
    have hnext : (payShift d s).1.bitIdx.toNat = s.bitIdx.toNat + 1 := bitIdx_succ hlt
    have hstep : stepItem (.data d) s = ((payShift d s).1, none) := (ItemStep.payShift hst hlt).stepItem_eq
    rw [dbitsItems_cons, process_cons_of_silent hstep, ih hst' (by omega), List.foldl_cons, ← add_one_add_ofNat]
    rfl

theorem byteItems_eq (b : Byte) : byteItems b = dbitsItems (bitsBelow b 8 7) ++ [.data (bitOf b 0)] := rfl

/-- The accumulator after seven bits of a byte, with its eighth shifted in, is the byte. -/
theorem shiftIn_foldl_byte (x b : Byte) : shiftIn ((bitsBelow b 8 7).foldl shiftIn x) (bitOf b 0) = b := by
  have hbits : bitsBelow b 8 8 = bitsBelow b 8 7 ++ [bitOf b 0] := bitsBelow_succ b 8 7
  have hword : (bitsBelow b 8 8).foldl shiftIn x = b := foldl_shiftIn_bitsBelow_width x b
  rwa [hbits, List.foldl_append] at hword

/-- The eighth bit of a byte that is not the packet's last commits it (42_payload.md R121). -/
theorem stepItem_eighthBit (d : Bit) (x : Byte) {s : State} (hst : s.st = .haveHeader)
    (hbyte : s.byteCnt.toNat + 1 < s.pktLen.toNat) :
    stepItem (.data d) { s with pbyte := x, bitIdx := 7 } =
      ({ bufWrite s.byteCnt (shiftIn x d) s with byteCnt := s.byteCnt + 1, bitIdx := 0, pbyte := 0 }, none) :=
  (ItemStep.payCommit (s := { s with pbyte := x, bitIdx := 7 }) hst rfl hbyte).stepItem_eq

/-- The items of a byte that is not the packet's last commit it. -/
theorem process_byteItems (b : Byte) {s : State} (hst : s.st = .haveHeader) (hidx : s.bitIdx = 0)
    (hbyte : s.byteCnt.toNat + 1 < s.pktLen.toNat) :
    process (byteItems b) s = ({ bufWrite s.byteCnt b s with byteCnt := s.byteCnt + 1, pbyte := 0 }, []) := by
  have hseven : process (dbitsItems (bitsBelow b 8 7)) s =
      ({ s with pbyte := (bitsBelow b 8 7).foldl shiftIn s.pbyte, bitIdx := 7 }, []) := by
    rw [process_payloadBits _ hst (by simp [hidx]), hidx, bitsBelow_length]
    rfl
  rw [byteItems_eq, process_append_of_silent hseven, process_singleton, stepItem_eighthBit _ _ hst hbyte,
    shiftIn_foldl_byte, ← hidx]
  rfl

/-- Settles O28: the eight items are those of the byte, and `process_byteItems` says what they do. -/
theorem eightDataBitsFormOneByte : Obligations.EightDataBitsFormOneByte :=
  fun b _ hst hidx hbyte => process_byteItems b hst hidx hbyte

end Sys2Proof.Machine

/-! PROOFS. The statements about 30_encoding.md: the decoder and the encoder of items (R60 to R62), the ignored bits of
a transport unit (R64) and the item that an edge runs (R67, R68). -/

namespace Sys2Proof

/-! ## Items and their two-bit codes (R61, R62) -/

/-- No item is illegal (R64). -/
theorem Instr.wf_eq_true (i : Instr) : i.wf = true := by
  cases i with
  | sync d => exact (Laws.LegalItem.sync d).1
  | data d => exact (Laws.LegalItem.data d).1

@[simp] theorem Instr.ofItemCode_itemCode (i : Instr) : Instr.ofItemCode i.itemCode = i := by
  cases i with
  | sync d => exact (Laws.LegalItem.sync d).2
  | data d => exact (Laws.LegalItem.data d).2

/-- Each of the four codes is the code of the item it names. -/
@[simp] theorem Instr.itemCode_ofItemCode (c : BitVec 2) : (Instr.ofItemCode c).itemCode = c := by
  revert c
  decide

/-! ## Units: the ignored bits above the item code (R60, R64) -/

/-- A unit is its ignored bits above its item code. -/
theorem append_itemCode_bits {n : Nat} (u : TransportUnit n) : u.extractLsb' 2 n ++ u.extractLsb' 0 2 = u :=
  (BitVec.extractLsb'_append_extractLsb'_eq_extractLsb' (Nat.zero_add 2).symm).trans BitVec.extractLsb'_eq_self

@[simp] theorem decode_encode {n : Nat} (x : BitVec n) (i : Instr) : decode (encode x i) = i := by
  have hcode : (encode x i).extractLsb' 0 2 = i.itemCode := BitVec.extractLsb'_append_eq_right
  rw [decode, hcode, Instr.ofItemCode_itemCode]

/-- A unit is the unit of the item it decodes to, under its own ignored bits. -/
theorem encode_decode {n : Nat} (u : TransportUnit n) : encode (u.extractLsb' 2 n) (decode u) = u := by
  rw [encode, decode, Instr.itemCode_ofItemCode]
  exact append_itemCode_bits u

/-- Settles O2: an item is read back from its unit (`decode_encode`), every item is well-formed, and a unit is rebuilt
from its item and its own ignored bits (`encode_decode`). -/
theorem decodeAndEncodeAgree : Obligations.DecodeAndEncodeAgree :=
  ⟨fun i _ x _ => decode_encode x i, fun _ u => ⟨(decode u).wf_eq_true, _, encode_decode u⟩⟩

/-- Units of any widths that agree on bits 0 and 1 carry the same item (R64). -/
theorem decode_congr {n n' : Nat} {u : TransportUnit n} {u' : TransportUnit n'}
    (h0 : u.getLsbD 0 = u'.getLsbD 0) (h1 : u.getLsbD 1 = u'.getLsbD 1) : decode u = decode u' := by
  have hcode : u.extractLsb' 0 2 = u'.extractLsb' 0 2 := by
    refine BitVec.eq_of_getLsbD_eq fun i hi => ?_
    obtain rfl | rfl : i = 0 ∨ i = 1 := by omega
    · simpa using h0
    · simpa using h1
  rw [decode, decode, hcode]

/-! ## Ports of any width (00_scope.md R12) -/

theorem decodePort_of_wide {w : Nat} (v : BitVec w) (h : 2 ≤ w) :
    decodePort w v = .ok (decode (n := w - 2) (v.setWidth _)) :=
  if_pos (decide_eq_true h)

theorem decodePort_of_narrow {w : Nat} (v : BitVec w) (h : w < 2) : decodePort w v = .error .unitTooNarrow :=
  if_neg (by simpa [WellFormed.itemWOk] using h)

/-- Settles O1: the five ports of at least two bits by evaluating their decoder, the one-bit port by its width. -/
theorem itemWordsDecodeByFlagAndDataBit : Obligations.ItemWordsDecodeByFlagAndDataBit :=
  ⟨rfl, rfl, rfl, rfl, rfl, decodePort_of_narrow _ Nat.one_lt_two⟩

end Sys2Proof

namespace Sys2Proof.Machine

/-! ## The item an edge runs (R67, R68) -/

theorem step_of_inputs_cons {s : State} {e : Edge s.extraBits} {rest : List (Edge s.extraBits)}
    (h : s.inputs = e :: rest) : step s = clockEdge Config.whitenerEn e { s with inputs := rest } := by
  rw [step, nextEdge_cons h]

/-- A valid item at an edge without reset runs. -/
theorem clockEdge_item {n : Nat} (u : TransportUnit n) (s : State) :
    clockEdge Config.whitenerEn ⟨false, true, u⟩ s = exec (decode u) s := rfl

/-- An edge reads its unit through the decoder only. -/
theorem clockEdge_congr {n n' : Nat} {u : TransportUnit n} {u' : TransportUnit n'} (h : decode u = decode u')
    (whitenerEn rst valid : Bool) (s : State) :
    clockEdge whitenerEn ⟨rst, valid, u⟩ s = clockEdge whitenerEn ⟨rst, valid, u'⟩ s := by
  simp only [clockEdge, h]

/-- Settles O4: the step is the clock edge taken off the list, which runs the decoded item (`clockEdge_item`). -/
theorem stepRunsTheDecodedItem : Obligations.StepRunsTheDecodedItem := by
  rintro s u _ rest hin rfl
  rw [step_of_inputs_cons hin, clockEdge_item]

/-- Settles O3: the decoder reads bits 0 and 1 only (`decode_congr`), an edge reads its unit through the decoder only
(`clockEdge_congr`), and every item's meaning answers a next state (`exec_eq`). -/
theorem ignoredBitsHaveNoEffect : Obligations.IgnoredBitsHaveNoEffect := by
  refine ⟨fun w v hw => ⟨_, decodePort_of_wide v hw, Instr.wf_eq_true _⟩, fun _ _ _ _ => decode_congr, ?_, ?_⟩
  · intro s rst valid u u' rest h0 h1
    rw [step_of_inputs_cons rfl, step_of_inputs_cons rfl]
    exact clockEdge_congr (decode_congr h0 h1) _ _ _ _
  · intro s u rest
    rw [step_of_inputs_cons rfl, clockEdge_item]
    exact ⟨_, exec_eq _ _⟩

end Sys2Proof.Machine

/-! PROOFS. The statements about 40_frame_sync.md: the items that `SYNC_SEARCH` ignores (R82, R88), the sync item in any
state (R84), in a header (R85) and in a payload (R86), and the edge without an item (R89). -/

namespace Sys2Proof.Machine

/-! ## Single items and idle edges (R82, R84, R89) -/

/-- Settles O8: the row `ItemStep.sync` holds in every state, and a step without a packet only lowers the strobe. -/
theorem syncItemStartsANewHeader : Obligations.SyncItemStartsANewHeader := by
  intro d s
  rw [exec_eq, (ItemStep.sync d s).stepItem_eq]
  rfl

/-- Settles O10, by induction on the batch: each item takes the row `ItemStep.search`. -/
theorem noSyncItemNoPacket : Obligations.NoSyncItemNoPacket := by
  intro items s hst hdata
  induction items with
  | nil => rfl
  | cons i items ih =>
    obtain ⟨⟨d, rfl⟩, hrest⟩ := List.forall_mem_cons.1 hdata
    rw [process_cons_of_silent (ItemStep.search hst).stepItem_eq, ih hrest]

/-- Settles O9: one item by the row `ItemStep.search`, the batch by `noSyncItemNoPacket`. -/
theorem searchIgnoresDataItems : Obligations.SearchIgnoresDataItems := by
  refine ⟨fun d s hst => ?_, fun d s hst => (ItemStep.search hst).stepItem_eq, ?_⟩
  · rw [exec_eq, (ItemStep.search hst).stepItem_eq]
    rfl
  · refine noSyncItemNoPacket _ _ reset_st fun i hi => ?_
    obtain ⟨d, -, rfl⟩ := List.mem_map.1 hi
    exact ⟨d, rfl⟩

/-- An edge with neither reset nor a valid item publishes no output. -/
theorem clockEdge_idle {n : Nat} (u : TransportUnit n) (s : State) :
    clockEdge Config.whitenerEn ⟨false, false, u⟩ s = .next (publish (s, none)) := rfl

/-- Settles O37: a listed edge by `clockEdge_idle`, and with none listed the next edge is idle (`nextEdge_nil`). -/
theorem idleEdgeOnlyClearsTheStrobe : Obligations.IdleEdgeOnlyClearsTheStrobe := by
  refine ⟨fun s u rest hin => ?_, fun s hin => ?_⟩
  · rw [step_of_inputs_cons hin, clockEdge_idle]
    rfl
  · rw [step, nextEdge_nil hin]
    exact clockEdge_idle 0 s

/-! ## A whole header (41_header.md R101, R108) -/

theorem hdrItems_eq_take_append (h : Header) : hdrItems h = (hdrItems h).take 31 ++ [.data (bitOf h 0)] :=
  (List.take_append_drop 31 (hdrItems h)).symm

/-- The 32nd bit that completes a header `h` which is not tied. -/
theorem stepItem_lastHeaderBit {d : Bit} {h : Header} {s : State} (hst : s.st = .haveSync) (hcnt : s.hdrCnt.toNat = 31)
    (hword : shiftIn s.hdr d = h) (hw : weight h ≠ 12) :
    stepItem (.data d) s = (enterHaveHeader (declaredLength h) 0 s, none) := by
  subst hword
  exact (ItemStep.hdrAccepted hst hcnt hw).stepItem_eq

/-- From any state, a header that is not tied enters `HAVE_HEADER` with its declared length and emits nothing. -/
theorem process_hdrItems {h : Header} (hw : weight h ≠ 12) (s : State) :
    process (hdrItems h) s = (enterHaveHeader (declaredLength h) 0 s, []) := by
  rw [hdrItems_eq_take_append, process_append_of_silent (process_hdrItems_take h s (le_refl 30)), process_singleton,
    stepItem_lastHeaderBit (h := h) (hw := hw)]
  · rfl
  · rfl
  · rfl
  · exact shiftIn_ushiftRight_one h

theorem declaredLength_toNat (h : Header) : (declaredLength h).toNat = if weight h < 12 then 5 else 260 := by
  unfold declaredLength
  split <;> rfl

/-! ## A packet not yet complete (R86, 42_payload.md R120, R121) -/

/-- Fewer bits than the packet still lacks emit nothing. -/
theorem process_unfinishedPayload (bits : List Bit) {s : State} (hst : s.st = .haveHeader)
    (hbits : 8 * s.byteCnt.toNat + s.bitIdx.toNat + bits.length < 8 * s.pktLen.toNat) :
    ∃ t, process (dbitsItems bits) s = (t, []) := by
  induction bits generalizing s with
  | nil => exact ⟨s, rfl⟩
  | cons d bits ih =>
    rw [List.length_cons] at hbits
    have hidx := s.bitIdx_lt
    rw [dbitsItems_cons]
    by_cases hlt : s.bitIdx.toNat < 7
    · have hnext : (payShift d s).1.bitIdx.toNat = s.bitIdx.toNat + 1 := bitIdx_succ hlt
      have hbits' : 8 * s.byteCnt.toNat + (payShift d s).1.bitIdx.toNat + bits.length < 8 * s.pktLen.toNat := by omega
      obtain ⟨t, ht⟩ := ih (s := (payShift d s).1) hst hbits'
      exact ⟨t, (process_cons_of_silent (ItemStep.payShift hst hlt).stepItem_eq).trans ht⟩
    · have hbyte : s.byteCnt.toNat + 1 < s.pktLen.toNat := by omega
      have hnext : (payCommit d s).1.byteCnt.toNat = s.byteCnt.toNat + 1 := byteCnt_succ (Nat.lt_of_succ_lt hbyte)
      have hbits' : 8 * (payCommit d s).1.byteCnt.toNat + 0 + bits.length < 8 * s.pktLen.toNat := by omega
      obtain ⟨t, ht⟩ := ih (s := (payCommit d s).1) hst hbits'
      exact ⟨t, (process_cons_of_silent (ItemStep.payCommit hst (by omega) hbyte).stepItem_eq).trans ht⟩

/-! ## A complete payload (42_payload.md R121, R122, R127) -/

/-- The buffer after the bytes `bs` are stored at index `a` and the indices that follow. `process_bytesItems` says that
a payload leaves this. -/
def Memory.storeBytes (m : Memory) (a : Nat) : List Byte → Memory
  | [] => m
  | b :: bs => Memory.storeBytes (m.store a b) (a + 1) bs

/-- Writing the byte after a prefix of the buffer makes the prefix one byte longer. -/
theorem bufPrefix_bufWrite_succ {i len : Index} (b : Byte) (s : State) (h : len.toNat = i.toNat + 1) :
    bufPrefix len (bufWrite i b s) = bufPrefix i s ++ [b] := by
  have hbefore : ∀ j ∈ List.range i.toNat,
      bufRead (BitVec.ofNat _ j) (bufWrite i b s) = bufRead (BitVec.ofNat _ j) s := by
    intro j hj
    refine bufRead_bufWrite_of_ne b s fun heq => ?_
    have hle : i.toNat ≤ j := heq ▸ Nat.mod_le j _
    exact absurd (List.mem_range.1 hj) (not_lt.2 hle)
  simp only [bufPrefix, h, List.range_succ, List.map_append, List.map_cons, List.map_nil, List.map_congr_left hbefore,
    BitVec.ofNat_toNat, BitVec.setWidth_eq, bufRead_bufWrite_self]

/-- The first seven items of a byte put its upper bits into the accumulator. -/
theorem process_sevenBits (b : Byte) {s : State} (hst : s.st = .haveHeader) (hidx : s.bitIdx = 0) :
    process (dbitsItems (bitsBelow b 8 7)) s =
      ({ s with pbyte := (bitsBelow b 8 7).foldl shiftIn s.pbyte, bitIdx := 7 }, []) := by
  rw [process_payloadBits _ hst (by simp [hidx]), hidx, bitsBelow_length]
  rfl

/-- The eighth bit of the packet's last byte emits the packet (42_payload.md R122). -/
theorem stepItem_lastBit (d : Bit) (x : Byte) {s : State} (hst : s.st = .haveHeader)
    (hbyte : s.pktLen.toNat = s.byteCnt.toNat + 1) :
    stepItem (.data d) { s with pbyte := x, bitIdx := 7 } =
      (enterSearch (bufWrite s.byteCnt (shiftIn x d) s),
        some ⟨bufPrefix s.byteCnt s ++ [shiftIn x d], s.pktLen⟩) := by
  rw [← bufPrefix_bufWrite_succ _ s hbyte]
  exact (ItemStep.payLast (s := { s with pbyte := x, bitIdx := 7 }) hst rfl hbyte.le).stepItem_eq

/-- The items of the packet's last byte emit it after the bytes committed so far. -/
theorem process_lastByteItems (b : Byte) {s : State} (hst : s.st = .haveHeader) (hidx : s.bitIdx = 0)
    (hbyte : s.pktLen.toNat = s.byteCnt.toNat + 1) :
    process (byteItems b) s =
      (enterSearch (bufWrite s.byteCnt b s), [⟨bufPrefix s.byteCnt s ++ [b], s.pktLen⟩]) := by
  rw [byteItems_eq, process_append_of_silent (process_sevenBits b hst hidx), process_singleton,
    stepItem_lastBit _ _ hst hbyte, shiftIn_foldl_byte]
  rfl

/-- The state once the byte `b`, not the packet's last, is committed; `process_byteItems_eq_commitByte` says that its
items lead there. -/
def commitByte (b : Byte) (s : State) : State :=
  { bufWrite s.byteCnt b s with byteCnt := s.byteCnt + 1, pbyte := 0 }

theorem process_byteItems_eq_commitByte (b : Byte) {s : State} (hst : s.st = .haveHeader) (hidx : s.bitIdx = 0)
    (hbyte : s.byteCnt.toNat + 1 < s.pktLen.toNat) : process (byteItems b) s = (commitByte b s, []) :=
  process_byteItems b hst hidx hbyte

theorem commitByte_byteCnt (b : Byte) {s : State} (h : s.byteCnt.toNat < s.pktLen.toNat) :
    (commitByte b s).byteCnt.toNat = s.byteCnt.toNat + 1 := byteCnt_succ h

theorem bytesItems_cons (b : Byte) (bs : List Byte) : bytesItems (b :: bs) = byteItems b ++ bytesItems bs := rfl

/-- The bytes that a packet still lacks complete it: it is emitted with the bytes committed so far and these. -/
theorem process_bytesItems (b : Byte) (bs : List Byte) {s : State} (hst : s.st = .haveHeader) (hidx : s.bitIdx = 0)
    (hlen : s.pktLen.toNat = s.byteCnt.toNat + (b :: bs).length) :
    process (bytesItems (b :: bs)) s =
      ({ enterSearch s with buf := s.buf.storeBytes s.byteCnt.toNat (b :: bs) },
        [⟨bufPrefix s.byteCnt s ++ b :: bs, s.pktLen⟩]) := by
  induction bs generalizing b s with
  | nil => exact (congrArg (process · s) (List.append_nil _)).trans (process_lastByteItems b hst hidx hlen)
  | cons b' bs ih =>
    rw [List.length_cons, List.length_cons] at hlen
    have hcnt := commitByte_byteCnt b (s := s) (by omega)
    have hprefix : bufPrefix (commitByte b s).byteCnt (commitByte b s) = bufPrefix s.byteCnt s ++ [b] :=
      bufPrefix_bufWrite_succ b s hcnt
    have hlen' : s.pktLen.toNat = (commitByte b s).byteCnt.toNat + (b' :: bs).length := by
      rw [hcnt, List.length_cons]
      omega
    rw [bytesItems_cons, process_append_of_silent (process_byteItems_eq_commitByte b hst hidx (by omega)),
      ih b' (s := commitByte b s) hst hidx hlen', hprefix, hcnt, List.append_assoc]
    rfl

/-- From any state, a header that is not tied and the bytes it declares emit exactly those bytes. -/
theorem process_packetItems {h : Header} {bs : List Byte} (hw : weight h ≠ 12)
    (hlen : bs.length = if weight h < 12 then 5 else 260) (s : State) :
    process (hdrItems h ++ bytesItems bs) s =
      ({ enterSearch s with buf := s.buf.storeBytes 0 bs }, [⟨bs, BitVec.ofNat 12 bs.length⟩]) := by
  have hdecl : (declaredLength h).toNat = bs.length := (declaredLength_toNat h).trans hlen.symm
  have hword : BitVec.ofNat 12 bs.length = declaredLength h := hdecl ▸ BitVec.ofNat_toNat _ _
  cases bs with
  | nil => exact absurd hdecl (declaredLength_decoded h).pos.ne'
  | cons b bs =>
    rw [process_append_of_silent (process_hdrItems hw s), hword,
      process_bytesItems b bs rfl rfl (hdecl.trans (Nat.zero_add _).symm)]
    rfl

/-! ## A sync item in a header and in a payload (R85, R86) -/

/-- Settles O30: the items of the first header emit nothing (`process_hdrItems_take`), and the second packet is the same
from every state (`process_packetItems`). -/
theorem resyncInTheHeaderRestartsIt : Obligations.ResyncInTheHeaderRestartsIt := by
  intro k h h' bs s hk hk' hw' hlen
  obtain ⟨k, rfl⟩ := Nat.exists_eq_add_of_le' hk
  rw [List.append_assoc, process_append_of_silent (process_hdrItems_take h s (by omega)),
    process_packetItems hw' hlen]

/-- Settles O31: the first header and its unfinished payload emit nothing (`process_hdrItems`,
`process_unfinishedPayload`), and the second packet is the same from every state (`process_packetItems`). -/
theorem resyncInThePayloadAbandonsThePacket : Obligations.ResyncInThePayloadAbandonsThePacket := by
  intro h h' bits bs s hw hbits hw' hlen
  rw [← declaredLength_toNat] at hbits
  obtain ⟨t, ht⟩ := process_unfinishedPayload bits (s := enterHaveHeader (declaredLength h) 0 s) rfl
    (by simpa using hbits)
  rw [List.append_assoc, List.append_assoc, process_append_of_silent (process_hdrItems hw s),
    process_append_of_silent ht, process_packetItems hw' hlen]

end Sys2Proof.Machine

/-! PROOFS. The statements about 41_header.md: header shift (R100), the vote and the decode (R102 to R105, R111) and
header completion (R101, R106 to R109). -/

namespace Sys2Proof.Machine

/-! ## The vote weight (R102, R111) -/

/-- The set bits of a field, counted by their positions in the whole word. -/
theorem popcount_extractLsb {w : Nat} (v : BitVec w) (top low : Nat) :
    popcount (v.extractLsb top low) = (List.range (top - low + 1)).countP fun i => v.getLsbD (low + i) := by
  refine List.countP_congr fun i hi => ?_
  have hpos : i < top - low + 1 := List.mem_range.1 hi
  simp [BitVec.extractLsb, hpos]

/-- The weight is the number of set bits in the two voted fields. -/
theorem weight_eq_countP (h : Header) :
    weight h = (List.range 12).countP (fun i => h.getLsbD i) + (List.range 12).countP fun i => h.getLsbD (16 + i) := by
  have hlow := popcount_extractLsb h 11 0
  simp only [Nat.zero_add] at hlow
  calc weight h = popcount (h.extractLsb 11 0) + popcount (h.extractLsb 27 16) := rfl
    _ = _ := congrArg₂ (· + ·) hlow (popcount_extractLsb h 27 16)

theorem weight_le (h : Header) : weight h ≤ 24 :=
  Nat.add_le_add (popcount_le (h.extractLsb 11 0)) (popcount_le (h.extractLsb 27 16))

/-- Headers that agree on the voted bits weigh the same. -/
theorem weight_congr {h h' : Header}
    (hvoted : ∀ i < 12, h.getLsbD i = h'.getLsbD i ∧ h.getLsbD (16 + i) = h'.getLsbD (16 + i)) :
    weight h = weight h' := by
  rw [weight_eq_countP, weight_eq_countP]
  congr 1
  · exact List.countP_congr fun i hi => by rw [(hvoted i (List.mem_range.1 hi)).1]
  · exact List.countP_congr fun i hi => by rw [(hvoted i (List.mem_range.1 hi)).2]

/-- Settles O15: the two voted fields counted bit by bit (`weight_eq_countP`), 12 bits each, and nothing else read
(`weight_congr`). -/
theorem voteWeightCountsTheVotedBits : Obligations.VoteWeightCountsTheVotedBits :=
  ⟨fun h => ⟨weight_eq_countP h, weight_le h⟩, fun _ _ => weight_congr⟩

/-- Both voted fields of a header of two equal halves are its length field. -/
theorem weight_repetition (n : BitVec 12) (x : BitVec 4) :
    weight (x ++ n ++ x ++ n) = 2 * (List.range 12).countP fun i => n.getLsbD i := by
  have hlow : ∀ i ∈ List.range 12, (x ++ n ++ x ++ n).getLsbD i = true ↔ n.getLsbD i = true := by
    intro i hi
    rw [BitVec.getLsbD_append, if_pos (List.mem_range.1 hi)]
  have hhigh : ∀ i ∈ List.range 12, (x ++ n ++ x ++ n).getLsbD (16 + i) = true ↔ n.getLsbD i = true := by
    intro i hi
    rw [BitVec.getLsbD_append, if_neg (by omega), BitVec.getLsbD_append, if_neg (by omega), BitVec.getLsbD_append,
      if_pos (by have := List.mem_range.1 hi; omega), show 16 + i - 12 - 4 = i by omega]
  rw [weight_eq_countP, List.countP_congr hlow, List.countP_congr hhigh, Nat.two_mul]

/-! ## The decode (R103 to R105) -/

theorem decodeHeader_of_lt {h : Header} (hw : weight h < 12) : decodeHeader h = some 5 := if_pos hw

theorem decodeHeader_of_gt {h : Header} (hw : 12 < weight h) : decodeHeader h = some 260 :=
  (if_neg hw.le.not_gt).trans (if_pos hw)

theorem decodeHeader_of_tied {h : Header} (hw : weight h = 12) : decodeHeader h = none :=
  (if_neg hw.not_lt).trans (if_neg hw.not_gt)

/-- Settles O16: one equation of the decoder for each side of the threshold, and a tie completes to `SYNC_SEARCH`
(`hdrDone_of_tied`). -/
theorem decodeHeaderThresholds : Obligations.DecodeHeaderThresholds := by
  refine ⟨fun h => ⟨decodeHeader_of_lt, decodeHeader_of_gt, decodeHeader_of_tied⟩, fun d s hw => ?_⟩
  rw [hdrDone_of_tied hw]
  rfl

/-- Settles O21: the weight is twice the set bits of the length field (`weight_repetition`), so 6 of them are the
threshold. -/
theorem repetitionHeaderVote : Obligations.RepetitionHeaderVote := by
  intro n x
  have hw := weight_repetition n x
  exact ⟨hw, fun hn => decodeHeader_of_lt (by omega), fun hn => decodeHeader_of_gt (by omega),
    fun hn => decodeHeader_of_tied (by omega)⟩

/-- The length extracted from a decoded header. -/
theorem headerPayload_decodedLength {h v : Header} (hv : decodeHeader h = some v) :
    DecodedLength (headerPayload v).1 := by
  rcases decodeHeader_cases h with ⟨-, hdec⟩ | ⟨-, hdec⟩ | ⟨-, hdec⟩ <;> rw [hdec] at hv
  · exact .inl (Option.some.inj hv ▸ rfl)
  · exact .inr (Option.some.inj hv ▸ rfl)
  · cases hv

/-- Settles O17: the extraction is the low 12 bits by definition, and a decoded header gives 5 or 260
(`headerPayload_decodedLength`). -/
theorem headerPayloadIsTheLowTwelveBits : Obligations.HeaderPayloadIsTheLowTwelveBits :=
  ⟨fun _ => rfl, fun _ _ => headerPayload_decodedLength⟩

/-! ## The declared length (R106 to R108) -/

theorem acceptHeader_of_over {capacity : Nat} {len : Index} (h : capacity < len.toNat)
    (off : BitVec Config.whOffBits) (s : State) : acceptHeader capacity (len, off) s = (enterSearch s, none) :=
  if_pos h

theorem acceptHeader_zero (capacity : Nat) (off : BitVec Config.whOffBits) (s : State) :
    acceptHeader capacity (0, off) s = (enterSearch s, some ⟨[], 0⟩) :=
  (if_neg (Nat.not_lt_zero capacity)).trans (if_pos rfl)

theorem acceptHeader_of_fits {capacity : Nat} {len : Index} (h : len.toNat ≤ capacity) (h0 : len ≠ 0)
    (off : BitVec Config.whOffBits) (s : State) :
    acceptHeader capacity (len, off) s = (enterHaveHeader len off s, none) :=
  (if_neg h.not_gt).trans (if_neg h0)

/-- Settles O19: one equation of `acceptHeader` for each range of the length, and a decoded length is positive and at
most any 12-bit index. -/
theorem declaredLengthIsCheckedInOrder : Obligations.DeclaredLengthIsCheckedInOrder := by
  refine ⟨fun capacity len off s => ⟨fun h => acceptHeader_of_over h off s, ?_,
    fun h h0 => acceptHeader_of_fits h h0 off s⟩, fun h v hv => ⟨(index_lt_capacity _).le, fun h0 => ?_⟩⟩
  · rintro rfl
    exact acceptHeader_zero capacity off s
  · exact (headerPayload_decodedLength hv).pos.ne' (congrArg BitVec.toNat h0)

/-! ## One header bit (R100, R101, R109) -/

/-- At a clock edge an item takes its row of R90, with the row's output on the pins. -/
theorem ItemStep.exec_eq {i : Instr} {s : State} {r : State × Option Packet} (h : ItemStep i s r) :
    exec i s = .next (publish r) := by
  rw [Machine.exec_eq, h.stepItem_eq]

/-- In a state of 10_state.md R31 the header register is not full before its 32nd bit. -/
theorem RegistersOk.hdr_top_bit {s : State} (hreg : RegistersOk s) (hst : s.st = .haveSync)
    (hcnt : s.hdrCnt.toNat ≤ 31) : s.hdr.getLsbD 31 = false := by
  obtain ⟨hlt, -, -⟩ := (registersOk_of_haveSync hst).1 hreg
  exact Nat.testBit_lt_two_pow (hlt.trans_le (Nat.pow_le_pow_right Nat.two_pos hcnt))

/-- Settles O13: the row `ItemStep.hdrShift`, the count by `hdrCnt_succ`, and the bit shifted out by
`RegistersOk.hdr_top_bit`. -/
theorem headerShiftTakesTheDataBit : Obligations.HeaderShiftTakesTheDataBit :=
  fun _ _ hst hcnt => ⟨(ItemStep.hdrShift hst hcnt).exec_eq, hdrCnt_succ hcnt, fun hreg => hreg.hdr_top_bit hst hcnt.le⟩

theorem declaredLength_of_lt {h : Header} (hw : weight h < 12) : declaredLength h = 5 := if_pos hw

theorem declaredLength_of_gt {h : Header} (hw : 12 < weight h) : declaredLength h = 260 := if_neg hw.le.not_gt

/-- Settles O18: the row `ItemStep.hdrTied` for a tie and `ItemStep.hdrAccepted` on either side of it, with the declared
length that the weight selects. -/
theorem headerCompletionFollowsTheVote : Obligations.HeaderCompletionFollowsTheVote := by
  intro d s hst hcnt
  have hcnt' : s.hdrCnt.toNat = 31 := congrArg BitVec.toNat hcnt
  refine ⟨fun hw => (ItemStep.hdrTied hst hcnt' hw).exec_eq, fun hw => ?_, fun hw => ?_⟩
  · rw [(ItemStep.hdrAccepted hst hcnt' hw.ne).exec_eq, shiftIn_header, declaredLength_of_lt hw]
    rfl
  · rw [(ItemStep.hdrAccepted hst hcnt' hw.ne').exec_eq, shiftIn_header, declaredLength_of_gt hw]
    rfl

/-- Header completion reads the header through its weight only, and overwrites the register. -/
theorem hdrDone_congr {d d' : Bit} {s : State} {hdr' : Header}
    (hw : weight (shiftIn s.hdr d) = weight (shiftIn hdr' d')) :
    hdrDone d s = hdrDone d' { s with hdr := hdr' } := by
  by_cases htied : weight (shiftIn s.hdr d) = 12
  · rw [hdrDone_of_tied htied, hdrDone_of_tied (s := { s with hdr := hdr' }) (hw.symm.trans htied)]
    rfl
  · have hlen : declaredLength (shiftIn s.hdr d) = declaredLength (shiftIn hdr' d') := by
      rw [declaredLength, declaredLength, hw]
    rw [hdrDone_of_not_tied htied, hdrDone_of_not_tied (s := { s with hdr := hdr' }) (hw ▸ htied), hlen]
    rfl

/-- The 32nd header bit completes the header. -/
theorem stepItem_eq_hdrDone (d : Bit) {s : State} (hst : s.st = .haveSync) (hcnt : s.hdrCnt = 31) :
    stepItem (.data d) s = hdrDone d s := by
  have hfull : ¬ s.hdrCnt.toNat + 1 < Config.headerBits := by
    rw [hcnt]
    exact Nat.lt_irrefl 32
  simp only [stepItem, dataItem, hst, if_neg hfull]

/-- Settles O20: the reserved bits have no weight (`weight_congr`), and completion reads the weight only
(`hdrDone_congr`). -/
theorem reservedHeaderBitsAffectNothing : Obligations.ReservedHeaderBitsAffectNothing := by
  intro d d' hdr' s hst hcnt hvoted
  rw [exec_eq, exec_eq, stepItem_eq_hdrDone d hst hcnt,
    stepItem_eq_hdrDone d' (s := { s with hdr := hdr' }) hst hcnt, hdrDone_congr (weight_congr hvoted)]

/-! ## A tied header and what follows (R109) -/

/-- The 32nd bit that completes a tied header `h`. -/
theorem stepItem_lastHeaderBit_of_tied {d : Bit} {h : Header} {s : State} (hst : s.st = .haveSync)
    (hcnt : s.hdrCnt.toNat = 31) (hword : shiftIn s.hdr d = h) (hw : weight h = 12) :
    stepItem (.data d) s = (enterSearch s, none) := by
  subst hword
  exact (ItemStep.hdrTied hst hcnt hw).stepItem_eq

/-- From any state, a tied header returns to `SYNC_SEARCH` and emits nothing. -/
theorem process_tiedHdrItems {h : Header} (hw : weight h = 12) (s : State) :
    process (hdrItems h) s = (enterSearch s, []) := by
  rw [hdrItems_eq_take_append, process_append_of_silent (process_hdrItems_take h s (le_refl 30)), process_singleton,
    stepItem_lastHeaderBit_of_tied (h := h) (hw := hw)]
  · rfl
  · rfl
  · rfl
  · exact shiftIn_ushiftRight_one h

theorem process_dbitsItems_of_search (bits : List Bit) {s : State} (hst : s.st = .syncSearch) :
    process (dbitsItems bits) s = (s, []) := by
  refine noSyncItemNoPacket _ s hst fun i hi => ?_
  obtain ⟨d, -, rfl⟩ := List.mem_map.1 hi
  exact ⟨d, rfl⟩

/-- Settles O22: the header returns to `SYNC_SEARCH` (`process_tiedHdrItems`), where the payload bits are ignored
(`process_dbitsItems_of_search`). -/
theorem tiedHeaderPayloadIsIgnored : Obligations.TiedHeaderPayloadIsIgnored := by
  intro h bits s hw
  rw [process_append_of_silent (process_tiedHdrItems hw s), process_dbitsItems_of_search bits rfl]
  rfl

end Sys2Proof.Machine

/-! PROOFS. The statements about 42_payload.md: payload shift (R120), byte commit (R121), emission (R122, R123), the
round trip (R127), the bounds of a payload (R126) and the distance between emissions (R125). -/

namespace Sys2Proof.Machine

/-! ## One payload bit (R120) -/

/-- Shifting an operand into a register with room for it doubles the value and adds the bit. -/
theorem shiftIn_toNat {w : Nat} {v : BitVec w} (d : Bit) (h : 2 * v.toNat + 1 < 2 ^ w) :
    (shiftIn v d).toNat = 2 * v.toNat + d.toNat := by
  have hd : d.toNat < 2 := d.isLt
  have hshift : (v <<< 1).toNat = v.toNat <<< 1 := by
    rw [BitVec.toNat_shiftLeft, Nat.mod_eq_of_lt]
    omega
  have hbit : (d.setWidth w).toNat = d.toNat := by
    rw [BitVec.toNat_setWidth, Nat.mod_eq_of_lt]
    omega
  calc (shiftIn v d).toNat = v.toNat <<< 1 ||| d.toNat := by rw [shiftIn, BitVec.toNat_or, hshift, hbit]
    _ = v.toNat <<< 1 + d.toNat := (Nat.shiftLeft_add_eq_or_of_lt hd _).symm
    _ = 2 * v.toNat + d.toNat := by omega

/-- In a state of 10_state.md R31 the accumulator holds no more than the bits counted by `bit_idx`. -/
theorem RegistersOk.pbyte_lt {s : State} (hreg : RegistersOk s) (hst : s.st = .haveHeader) :
    s.pbyte.toNat < 2 ^ s.bitIdx.toNat := by
  obtain ⟨-, -, -, -, hacc, -⟩ := (registersOk_of_haveHeader hst).1 hreg
  exact hacc

/-- In a state of 10_state.md R31 the accumulator has room for one more bit until it holds seven. -/
theorem RegistersOk.pbyte_room {s : State} (hreg : RegistersOk s) (hst : s.st = .haveHeader)
    (hidx : s.bitIdx.toNat < 7) : 2 * s.pbyte.toNat + 1 < 2 ^ Config.byteBits := by
  have hacc : s.pbyte.toNat < 2 ^ 6 :=
    (hreg.pbyte_lt hst).trans_le (Nat.pow_le_pow_right Nat.two_pos (Nat.le_of_lt_succ hidx))
  rw [two_pow_byteBits]
  omega

/-- In a state of 10_state.md R31 a byte starts from an empty accumulator. -/
theorem RegistersOk.pbyte_eq_zero {s : State} (hreg : RegistersOk s) (hst : s.st = .haveHeader)
    (hidx : s.bitIdx = 0) : s.pbyte = 0 := by
  have hacc := hreg.pbyte_lt hst
  rw [hidx] at hacc
  exact BitVec.eq_of_toNat_eq (Nat.lt_one_iff.1 hacc)

/-- Settles O25: the row `ItemStep.payShift`, the index by `bitIdx_succ`, and the accumulator of R31 by
`RegistersOk.pbyte_room` and `RegistersOk.pbyte_eq_zero`. -/
theorem payloadShiftTakesTheDataBit : Obligations.PayloadShiftTakesTheDataBit :=
  fun d _ hst hidx => ⟨(ItemStep.payShift hst hidx).exec_eq, bitIdx_succ hidx,
    fun hreg => shiftIn_toNat d (hreg.pbyte_room hst hidx), fun hreg => hreg.pbyte_eq_zero hst⟩

/-! ## The eighth bit of a byte (R121, R122) -/

/-- Settles O26: the row `ItemStep.payCommit`, whose buffer is the old one after one write. -/
theorem byteCommitWritesOneByte : Obligations.ByteCommitWritesOneByte := by
  intro d s hst hidx hbyte
  have hcnt : (s.byteCnt + 1).toNat = s.byteCnt.toNat + 1 := byteCnt_succ (Nat.lt_of_succ_lt hbyte)
  refine ⟨_, (ItemStep.payCommit hst (congrArg BitVec.toNat hidx) hbyte).exec_eq, rfl, hcnt, hcnt.trans_lt hbyte,
    Memory.lookup_store_self _ _ _, ?_, fun a ha => ?_⟩
  · exact bufRead_bufWrite_self s.byteCnt (shiftIn s.pbyte d) s
  · exact bufRead_bufWrite_of_ne (shiftIn s.pbyte d) s ha

/-- Byte `j` of an emitted packet is `buf[j]` (30_encoding.md R66), by the partial lookup. -/
theorem bufPrefix_getElem? {len : Index} (s : State) {j : Nat} (h : j < len.toNat) :
    (bufPrefix len s)[j]? = some (bufRead (BitVec.ofNat _ j) s) := by
  rw [List.getElem?_eq_getElem (by rwa [bufPrefix_length]), bufPrefix_getElem]

/-- Settles O27: the row `ItemStep.payLast`. The packet reads the buffer after the write (`bufPrefix_getElem?`), which
is the committed bytes with the completed one behind them (`bufPrefix_bufWrite_succ`). -/
theorem lastPayloadBitEmitsThePacket : Obligations.LastPayloadBitEmitsThePacket := by
  intro d s hst hidx hbyte
  have hbytes : bufPrefix s.pktLen (bufWrite s.byteCnt (shiftIn s.pbyte d) s) =
      bufPrefix s.byteCnt s ++ [shiftIn s.pbyte d] := bufPrefix_bufWrite_succ _ s hbyte.symm
  refine ⟨_, ⟨bufPrefix s.pktLen (bufWrite s.byteCnt (shiftIn s.pbyte d) s), s.pktLen⟩,
    (ItemStep.payLast hst (congrArg BitVec.toNat hidx) hbyte.ge).exec_eq, rfl, rfl, bufPrefix_length _ _,
    fun j hj => ?_, ?_, fun j hj => ?_, fun a ha => ?_⟩
  · have hlt : j < s.byteCnt.toNat := by omega
    rw [hbytes, List.getElem?_append_left (by rwa [bufPrefix_length]), bufPrefix_getElem? s hlt]
  · rw [hbytes, ← hbyte, Nat.add_sub_cancel, ← bufPrefix_length s.byteCnt s]
    exact List.getElem?_concat_length
  · exact bufPrefix_getElem? _ hj
  · exact bufRead_bufWrite_of_ne (shiftIn s.pbyte d) s ha

/-! ## The round trip (R127) -/

/-- Storing bytes leaves every lower index alone. -/
theorem Memory.lookup_storeBytes_of_lt (bs : List Byte) (m : Memory) {a i : Nat} (h : i < a) :
    (m.storeBytes a bs).lookup i = m.lookup i := by
  induction bs generalizing m a with
  | nil => rfl
  | cons b bs ih => rw [Memory.storeBytes, ih _ (Nat.lt_succ_of_lt h), Memory.lookup_store_of_ne m b h.ne]

/-- Stored bytes are read back from where they start, and behind them everything is as before. -/
theorem Memory.lookup_storeBytes_add (bs : List Byte) (m : Memory) (a j : Nat) :
    (m.storeBytes a bs).lookup (a + j) = bs[j]?.or (m.lookup (a + j)) := by
  induction bs generalizing m a j with
  | nil => rfl
  | cons b bs ih =>
    cases j with
    | zero => exact (Memory.lookup_storeBytes_of_lt bs _ (Nat.lt_succ_self a)).trans (Memory.lookup_store_self m a b)
    | succ j =>
      have hne : a + (j + 1) ≠ a := by omega
      have hshift : a + (j + 1) = a + 1 + j := by omega
      rw [List.getElem?_cons_succ, ← Memory.lookup_store_of_ne m b hne, Memory.storeBytes, hshift]
      exact ih _ _ _

/-- `BufRead` as the listed byte, or else the free value. -/
theorem bufRead_eq_getD (i : Index) (s : State) :
    bufRead i s = (s.buf.lookup i.toNat).getD (Config.unspecifiedByte s.epoch i) := by
  unfold bufRead
  cases s.buf.lookup i.toNat <;> rfl

/-- Reading a buffer in which the bytes `bs` were stored from index 0. -/
theorem bufRead_storeBytes {s t : State} {bs : List Byte} (hbuf : t.buf = s.buf.storeBytes 0 bs)
    (hepoch : t.epoch = s.epoch) (j : Index) : bufRead j t = bs[j.toNat]?.getD (bufRead j s) := by
  have hlookup := Memory.lookup_storeBytes_add bs s.buf 0 j.toNat
  rw [Nat.zero_add] at hlookup
  rw [bufRead_eq_getD, bufRead_eq_getD, hbuf, hepoch, hlookup]
  cases bs[j.toNat]? <;> rfl

/-- Settles O29: the batch by `process_packetItems`, and the buffer it leaves by `bufRead_storeBytes`. -/
theorem roundTripDeliversThePayload : Obligations.RoundTripDeliversThePayload :=
  fun _ _ s hw hlen => ⟨_, process_packetItems hw hlen s, rfl, bufRead_storeBytes rfl rfl⟩

/-! ## Emissions (R123) -/

/-- The sink's record after a step with output `r`. -/
theorem publish_delivered (r : State × Option Packet) : (publish r).delivered = r.1.delivered ++ r.2.toList := by
  obtain ⟨s, _ | p⟩ := r
  · exact (List.append_nil _).symm
  · rfl

/-- An item that emits is the last payload bit, and it leads to `SYNC_SEARCH`. -/
theorem ItemStep.of_emits {i : Instr} {s : State} {r : State × Option Packet} (h : ItemStep i s r)
    (hout : r.2 ≠ none) :
    (∃ d, i = .data d) ∧ s.st = .haveHeader ∧ s.bitIdx = 7 ∧ s.pktLen.toNat ≤ s.byteCnt.toNat + 1 ∧
      r.1.st = .syncSearch := by
  cases h with
  | sync | search | hdrShift | hdrTied | hdrAccepted | payShift | payCommit => exact absurd rfl hout
  | payLast hst hidx hbyte => exact ⟨⟨_, rfl⟩, hst, BitVec.eq_of_toNat_eq hidx, hbyte, rfl⟩

/-- Settles O32: the sink's record grows by the item's output (`publish_delivered`), and only the last payload bit has
one (`ItemStep.of_emits`). -/
theorem onlyTheLastPayloadBitEmits : Obligations.OnlyTheLastPayloadBitEmits := by
  intro i s t h hne
  obtain rfl := Host.Outcome.next.inj ((exec_eq i s).symm.trans h)
  have hout : (stepItem i s).2 ≠ none := by
    intro hnone
    rw [publish_delivered, hnone, stepItem_delivered] at hne
    exact hne (List.append_nil _)
  obtain ⟨hdata, hst, hidx, hbyte, -⟩ := (stepItem_itemStep i s).of_emits hout
  exact ⟨hdata, hst, hidx, hbyte, fun hreg => hreg.last_byte hst hbyte⟩

/-! ## The bounds of a payload (R126) -/

theorem RegistersOk.payload_bounds {s : State} (hreg : RegistersOk s) (hst : s.st = .haveHeader) :
    8 * s.byteCnt.toNat + s.bitIdx.toNat < 8 * s.pktLen.toNat ∧ 8 * s.pktLen.toNat ≤ 8 * Config.capacity := by
  obtain ⟨-, -, -, -, -, hbyte⟩ := (registersOk_of_haveHeader hst).1 hreg
  have hidx := s.bitIdx_lt
  exact ⟨by omega, Nat.mul_le_mul_left 8 (index_lt_capacity s.pktLen).le⟩

/-- Settles O33: the bounds hold in the row of R31 (`RegistersOk.payload_bounds`), and a step leads to it again
(`stepKeepsTheInvariant`). -/
theorem payloadStaysInBounds : Obligations.PayloadStaysInBounds :=
  ⟨fun s t hs h hst => (stepKeepsTheInvariant s t hs h).registers.payload_bounds hst,
    fun _ hreg hst => hreg.payload_bounds hst⟩

/-! ## The distance between emissions (R125, 70_reset_and_hazards.md R167) -/

/-- How many items it takes at least to emit, the emitting one included: from `SYNC_SEARCH` the 32 of a header and the
40 of the shorter payload, later less what has arrived of them. It is capped at those 72, since a sync item may come in
place of the rest of a longer payload. `process_eq_nil_of_lt_itemsToEmission` ties it to the model. -/
def State.itemsToEmission (s : State) : Nat :=
  match s.st with
  | .syncSearch => 72
  | .haveSync => 72 - s.hdrCnt.toNat
  | .haveHeader => min 72 (8 * s.pktLen.toNat - (8 * s.byteCnt.toNat + s.bitIdx.toNat))

theorem itemsToEmission_of_syncSearch {s : State} (h : s.st = .syncSearch) : s.itemsToEmission = 72 := by
  simp only [State.itemsToEmission, h]

theorem itemsToEmission_of_haveSync {s : State} (h : s.st = .haveSync) :
    s.itemsToEmission = 72 - s.hdrCnt.toNat := by
  simp only [State.itemsToEmission, h]

theorem itemsToEmission_of_haveHeader {s : State} (h : s.st = .haveHeader) :
    s.itemsToEmission = min 72 (8 * s.pktLen.toNat - (8 * s.byteCnt.toNat + s.bitIdx.toNat)) := by
  simp only [State.itemsToEmission, h]

theorem itemsToEmission_le_cap (s : State) : s.itemsToEmission ≤ 72 := by
  unfold State.itemsToEmission
  split
  · exact le_rfl
  · exact Nat.sub_le _ _
  · exact Nat.min_le_left _ _

theorem DecodedLength.five_le {len : Index} (h : DecodedLength len) : 5 ≤ len.toNat := by
  rcases h with rfl | rfl <;> decide

/-- A header just accepted lacks its whole payload, at least 40 items. -/
theorem le_itemsToEmission_enterHaveHeader {len : Index} (h : DecodedLength len) (s : State) :
    40 ≤ (enterHaveHeader len 0 s).itemsToEmission := by
  have hlen := h.five_le
  rw [itemsToEmission_of_haveHeader (enterHaveHeader_st len 0 s)]
  show 40 ≤ min 72 (8 * len.toNat - 0)
  omega

/-- One item brings an emission nearer by at most one item. -/
theorem ItemStep.itemsToEmission_le_succ {i : Instr} {s : State} {r : State × Option Packet} (h : ItemStep i s r) :
    s.itemsToEmission ≤ r.1.itemsToEmission + 1 := by
  cases h with
  | sync d s => exact itemsToEmission_le_cap s
  | search hst => exact Nat.le_succ _
  | @hdrShift d s hst hcnt =>
    have hnext : (Machine.hdrShift d s).1.hdrCnt.toNat = s.hdrCnt.toNat + 1 := hdrCnt_succ hcnt
    rw [itemsToEmission_of_haveSync hst, itemsToEmission_of_haveSync (s := (Machine.hdrShift d s).1) hst, hnext]
    omega
  | hdrTied | payLast => exact (itemsToEmission_le_cap s).trans (Nat.le_succ 72)
  | hdrAccepted hst hcnt hw =>
    rw [itemsToEmission_of_haveSync hst, hcnt]
    exact Nat.succ_le_succ (le_itemsToEmission_enterHaveHeader (declaredLength_decoded _) s)
  | @payShift d s hst hidx =>
    have hnext : (Machine.payShift d s).1.bitIdx.toNat = s.bitIdx.toNat + 1 := bitIdx_succ hidx
    rw [itemsToEmission_of_haveHeader hst, itemsToEmission_of_haveHeader (s := (Machine.payShift d s).1) hst, hnext]
    show _ ≤ min 72 (8 * s.pktLen.toNat - (8 * s.byteCnt.toNat + (s.bitIdx.toNat + 1))) + 1
    omega
  | @payCommit d s hst hidx hbyte =>
    have hnext : (Machine.payCommit d s).1.byteCnt.toNat = s.byteCnt.toNat + 1 :=
      byteCnt_succ (Nat.lt_of_succ_lt hbyte)
    rw [itemsToEmission_of_haveHeader hst, itemsToEmission_of_haveHeader (s := (Machine.payCommit d s).1) hst, hnext]
    show _ ≤ min 72 (8 * s.pktLen.toNat - (8 * (s.byteCnt.toNat + 1) + 0)) + 1
    omega

/-- An item emits only where one item is enough. -/
theorem ItemStep.silent_of_itemsToEmission {i : Instr} {s : State} {r : State × Option Packet} (h : ItemStep i s r)
    (hdue : 1 < s.itemsToEmission) : r.2 = none := by
  by_contra hout
  obtain ⟨-, hst, hidx, hbyte, -⟩ := h.of_emits hout
  have hidx' : s.bitIdx.toNat = 7 := congrArg BitVec.toNat hidx
  rw [itemsToEmission_of_haveHeader hst] at hdue
  omega

/-- Fewer items than an emission takes emit nothing. -/
theorem process_eq_nil_of_lt_itemsToEmission (items : List Instr) {s : State} (h : items.length < s.itemsToEmission) :
    (process items s).2 = [] := by
  induction items generalizing s with
  | nil => rfl
  | cons i items ih =>
    rw [List.length_cons] at h
    have hrow := stepItem_itemStep i s
    have hnear := hrow.itemsToEmission_le_succ
    rw [process_cons, hrow.silent_of_itemsToEmission (by omega), ih (by omega)]
    rfl

theorem process_eq_nil_of_syncSearch {items : List Instr} {s : State} (hst : s.st = .syncSearch)
    (hlen : items.length < 72) : (process items s).2 = [] :=
  process_eq_nil_of_lt_itemsToEmission items (by rwa [itemsToEmission_of_syncSearch hst])

/-- Settles O35: an emission leads to `SYNC_SEARCH` (`ItemStep.of_emits`), from where it takes 72 items
(`process_eq_nil_of_lt_itemsToEmission`). -/
theorem emissionsAreSeventyTwoItemsApart : Obligations.EmissionsAreSeventyTwoItemsApart := by
  refine ⟨fun i items s hout => ?_, fun _ _ => process_eq_nil_of_syncSearch⟩
  obtain ⟨-, -, -, -, hsearch⟩ := (stepItem_itemStep i s).of_emits hout
  exact ⟨hsearch, process_eq_nil_of_syncSearch hsearch⟩

end Sys2Proof.Machine

/-! PROOFS. The statements about 60_exceptions.md: no step, item or run of the block stops it (R153). -/

namespace Sys2Proof.Machine

/-- Every edge of the supported build, and so every step, answers a next state: a reset, an item's effect or idling. -/
theorem step_answers (s : State) : ∃ t, step s = .next t := by
  rcases clockEdge_cases (nextEdge s).1 (nextEdge s).2 with ⟨-, he⟩ | ⟨-, -, he⟩ | ⟨-, -, he⟩
  · exact ⟨_, he⟩
  · exact ⟨_, he⟩
  · exact ⟨_, he⟩

/-- A run goes on through each step's next state, so it never stops. -/
theorem runsOn (k : Nat) (s : State) : RunsOn k s := by
  induction k generalizing s with
  | zero => exact ⟨s, run_zero s⟩
  | succ k ih =>
    obtain ⟨t, hstep⟩ := step_answers s
    obtain ⟨u, hrun⟩ := ih t
    exact ⟨u, (run_succ k hstep).trans hrun⟩

/-- Settles O5: one step by the three kinds of edge (`step_answers`), an item by `exec_eq`, and a run by induction on
its length (`runsOn`). -/
theorem blockNeverStops : Obligations.BlockNeverStops :=
  ⟨step_answers, fun i s => ⟨_, exec_eq i s⟩, runsOn⟩

end Sys2Proof.Machine

/-! PROOFS. The statements about 70_reset_and_hazards.md: the reset edge (R161, R162) and the window in which the sink
reads the buffer (R165). -/

namespace Sys2Proof.Machine

/-! ## The reset edge (R161, R162) -/

/-- At a reset edge neither `in_valid` nor the item is read (60_exceptions.md R146). -/
theorem clockEdge_reset {n : Nat} (valid : Bool) (u : TransportUnit n) (s : State) :
    clockEdge Config.whitenerEn ⟨true, valid, u⟩ s = .next (resetEdge s) := rfl

theorem resetEdge_canonical (s : State) : Canonical (resetEdge s) := enterSearch_canonical s

/-- Settles O38: the edge taken off the list is a reset edge (`clockEdge_reset`), which enters `SYNC_SEARCH`, clears the
output registers and lists no buffer byte. -/
theorem resetEdgeWinsOverTheItem : Obligations.ResetEdgeWinsOverTheItem := by
  intro s valid u rest hin
  rw [step_of_inputs_cons hin, clockEdge_reset]
  exact ⟨_, rfl, resetEdge_canonical _, Memory.lookup_nil, rfl⟩

/-! ## The window of a buffer byte (R165) -/

/-- How many items of the frame in progress have been accepted: the bits of its header, and then its 32 header bits with
the bits of its payload. `ItemStep.frameItems_le_succ` and `ItemStep.bufRead_of_frameItems` tie it to the model. -/
def State.frameItems (s : State) : Nat :=
  match s.st with
  | .syncSearch => 0
  | .haveSync => s.hdrCnt.toNat
  | .haveHeader => 32 + 8 * s.byteCnt.toNat + s.bitIdx.toNat

theorem frameItems_of_syncSearch {s : State} (h : s.st = .syncSearch) : s.frameItems = 0 := by
  simp only [State.frameItems, h]

theorem frameItems_of_haveSync {s : State} (h : s.st = .haveSync) : s.frameItems = s.hdrCnt.toNat := by
  simp only [State.frameItems, h]

theorem frameItems_of_haveHeader {s : State} (h : s.st = .haveHeader) :
    s.frameItems = 32 + 8 * s.byteCnt.toNat + s.bitIdx.toNat := by
  simp only [State.frameItems, h]

/-- One item takes a frame at most one item further. -/
theorem ItemStep.frameItems_le_succ {i : Instr} {s : State} {r : State × Option Packet} (h : ItemStep i s r) :
    r.1.frameItems ≤ s.frameItems + 1 := by
  cases h with
  | sync d s => exact Nat.le_add_left 1 _
  | search hst => exact Nat.le_succ _
  | @hdrShift d s hst hcnt =>
    rw [frameItems_of_haveSync hst, frameItems_of_haveSync (s := (Machine.hdrShift d s).1) hst]
    exact (hdrCnt_succ hcnt).le
  | hdrTied | payLast => exact Nat.zero_le _
  | hdrAccepted hst hcnt hw =>
    rw [frameItems_of_haveSync hst, hcnt]
    exact le_refl 32
  | @payShift d s hst hidx =>
    rw [frameItems_of_haveHeader hst, frameItems_of_haveHeader (s := (Machine.payShift d s).1) hst]
    exact Nat.add_le_add_left (bitIdx_succ hidx).le _
  | @payCommit d s hst hidx hbyte =>
    have hnext : (Machine.payCommit d s).1.byteCnt.toNat = s.byteCnt.toNat + 1 :=
      byteCnt_succ (Nat.lt_of_succ_lt hbyte)
    rw [frameItems_of_haveHeader hst, frameItems_of_haveHeader (s := (Machine.payCommit d s).1) hst, hnext, hidx]
    show 32 + 8 * (s.byteCnt.toNat + 1) + 0 ≤ _
    omega

/-- Byte `j` is written by item `40 + 8j` of a frame, so an item before it leaves the byte alone. -/
theorem ItemStep.bufRead_of_frameItems {i : Instr} {s : State} {r : State × Option Packet} (h : ItemStep i s r)
    {j : Index} (hj : s.frameItems + 1 < 40 + 8 * j.toNat) : bufRead j r.1 = bufRead j s := by
  cases h with
  | sync | search | hdrShift | hdrTied | hdrAccepted | payShift => rfl
  | payCommit hst hidx | payLast hst hidx =>
    have hne : j ≠ s.byteCnt := by
      rintro rfl
      rw [frameItems_of_haveHeader hst] at hj
      omega
    exact bufRead_bufWrite_of_ne _ s hne

/-- A batch that ends before item `40 + 8j` of a frame leaves byte `j` alone. -/
theorem bufRead_process_of_frameItems (items : List Instr) {s : State} {j : Index}
    (h : s.frameItems + items.length < 40 + 8 * j.toNat) : bufRead j (process items s).1 = bufRead j s := by
  induction items generalizing s with
  | nil => rfl
  | cons i items ih =>
    rw [List.length_cons] at h
    have hrow := stepItem_itemStep i s
    have hnext := hrow.frameItems_le_succ
    rw [process_cons, ih (by omega), hrow.bufRead_of_frameItems (by omega)]

/-- Settles O36: the edges leave the buffer of the batch of their items (`pinLevelAgreesWithTransactions`), and from
`SYNC_SEARCH` that batch is too short to write byte `j` (`bufRead_process_of_frameItems`). -/
theorem bufferReadWindow : Obligations.BufferReadWindow := by
  intro s edges j hst hr hlen
  obtain ⟨t, hrun, -, -, ht⟩ := pinLevelAgreesWithTransactions s edges hr
  have hread : t.rdData j = bufRead j (process (suppliedItems edges) s).1 :=
    bufRead_congr j (congrArg State.buf ht :) (congrArg State.epoch ht :)
  have hshort : s.frameItems + (suppliedItems edges).length < 40 + 8 * j.toNat := by
    rwa [frameItems_of_syncSearch hst, Nat.zero_add]
  exact ⟨t, hrun, hread.trans (bufRead_process_of_frameItems _ hshort)⟩

end Sys2Proof.Machine
